-- ==== Sys2Proof/Word.lean ====
section
/-! DEFINITION. The machine's words: the byte, the 16-bit word, and the instruction fields of 4 and 12 bits
(00_scope.md R9, 30_encoding.md R58). All values are unsigned; no instruction reads one as signed. -/

namespace Sys2Proof

/-- An 8-bit unsigned value: a general register, a timer, a byte of memory (R9, R16). -/
abbrev Byte := BitVec 8

/-- A 16-bit unsigned value: an instruction word, the pc, the index register, a stack entry (R9, R20, R22). -/
abbrev Word := BitVec 16

/-- A 4-bit register number `0..15` (R58: the fields `x` and `y`). -/
abbrev Reg := BitVec 4

/-- A 4-bit field that names no register: a row count or an ignored nibble (R58). -/
abbrev Nibble := BitVec 4

/-- A 12-bit address immediate `nnn` (R58, R66). -/
abbrev Imm12 := BitVec 12

end Sys2Proof
end

