-- ==== Sys2Proof/Config.lean ====
section
/-! DEFINITION. What an implementation fixes: the constants of 00_scope.md R8, the parameters R8 leaves to a model
(plain data, kept in the state so that every statement quantifies over them; assumption log 2), and the free values:
constants with no body, of which nothing can be proved (assumption logs 3 and 5). -/

namespace Sys2Proof

/-- `MEM_SIZE`: 4096 bytes (R8, R35, R41). -/
abbrev memSize : Nat := 4096

/-- `PROGRAM_BASE`: where the ROM is loaded and execution starts (R8, R47, R142). -/
abbrev programBase : Nat := 0x200

/-- `COLUMNS` (R8, R33; spec decision D18). -/
abbrev columns : Nat := 64

/-- `ROWS` (R8, R33; spec decision D18). -/
abbrev rows : Nat := 32

/-- The bitmap, `fb[x][y]` at column `x` and row `y` (R33). The storage order is not observable and the model is
free in it. DESIGN CHOICE, safe (log 18). -/
abbrev Framebuffer := Vector (Vector Bool 32) 64

/-- The 16 key flags, `true` for a key that is down (R34). -/
abbrev KeyTable := Vector Bool 16

/-- `FLAG_OPERAND_ORDER` (R98, spec decision D1). -/
inductive FlagOperandOrder where
  /-- Operands are read once, then the flag is written, then the result. -/
  | latched
  /-- The store reads its operands again, after the flag was written. -/
  | sequential
  deriving DecidableEq, Repr

/-- `KEY_INDEX_POLICY` (R113, spec decision D11). -/
inductive KeyIndexPolicy where
  /-- A key index above 15 is a fatal condition. -/
  | fatal
  /-- The key index is the low nibble of the register. -/
  | lowNibble
  deriving DecidableEq, Repr

/-- `RESET_VALUES`: the construction values the source does not give (R38, spec decision D6). The invalid-opcode log
is one of them, empty by default, which is what R141's `log <- []` writes (log 30). -/
structure ResetValues where
  /-- V0 to VF. -/
  v : Vector Byte 16
  /-- The index register. -/
  i : Word
  /-- The call stack, top last. -/
  stack : List Word
  /-- The delay timer. -/
  dt : Byte
  /-- The sound timer. -/
  st : Byte
  /-- The framebuffer. -/
  fb : Framebuffer
  /-- The key table before the host's first refresh. -/
  keys : KeyTable
  /-- Memory outside the font and the ROM: the byte of each address in order, 0 past the list's end. -/
  mem : List Byte
  /-- The invalid-opcode log (log 30). -/
  log : List Word
  deriving DecidableEq, Repr

/-- The parameters of R8 that a claim may quantify over. -/
structure Config where
  /-- `FONT_BASE` (R49, spec decision D3). -/
  fontBase : Nat
  /-- `STACK_DEPTH` (R26, spec decision D2). -/
  stackDepth : Nat
  /-- `IPT`, instruction cycles per tick (R126). -/
  ipt : Nat
  /-- `FLAG_OPERAND_ORDER` (R98). -/
  flagOperandOrder : FlagOperandOrder
  /-- `STRICT_SKIP_REG_DECODE` (R65, spec decision D9). -/
  strictSkipRegDecode : Bool
  /-- `KEY_INDEX_POLICY` (R113). -/
  keyIndexPolicy : KeyIndexPolicy
  /-- `RESET_VALUES` (R38). -/
  resetValues : ResetValues
  deriving DecidableEq, Repr

/-- The byte that the `k`-th execution of Cxkk draws: a free value, under no law (R101, spec decision D14; log 3). -/
opaque Config.randomByte : Nat → Byte

/-- The key table the host gives at its `k`-th tick whose inputs nothing in the state fixes: a free value (R129; log 5). -/
opaque Config.frameKeys : Nat → KeyTable

/-- The last-key-pressed signal of that tick: a free value (R130; log 5). -/
opaque Config.framePress : Nat → Option Reg

end Sys2Proof
end

