-- ==== Sys2Proof/Machine/Defaults.lean ====
section
/-! DEFINITION. The default parameters (00_scope.md R8), the font (20_memory.md R48), the construction content of
memory (10_state.md R38) and which configurations a machine is built from (10_state.md R21, 20_memory.md R49). -/

namespace Sys2Proof

/-- The default RESET_VALUES: all zero, stack empty, framebuffer clear, keys up, log empty (R38, spec decision D6;
log 7). -/
def ResetValues.zero : ResetValues where
  v := Vector.replicate 16 0
  i := 0
  stack := []
  dt := 0
  st := 0
  fb := Vector.replicate 64 (Vector.replicate 32 false)
  keys := Vector.replicate 16 false
  mem := []
  log := []

/-- The default parameters (R8). -/
def Config.default : Config where
  fontBase := 0x000
  stackDepth := 16
  ipt := 10
  flagOperandOrder := .latched
  strictSkipRegDecode := false
  keyIndexPolicy := .fatal
  resetValues := ResetValues.zero

/-- The 16 font sprites, digit `d` at bytes `5d .. 5d+4`, top row first (R48, spec decision D4). -/
def font : List Byte :=
  [0xF0, 0x90, 0x90, 0x90, 0xF0] ++ [0x20, 0x60, 0x20, 0x20, 0x70] ++
  [0xF0, 0x10, 0xF0, 0x80, 0xF0] ++ [0xF0, 0x10, 0xF0, 0x10, 0xF0] ++
  [0x90, 0x90, 0xF0, 0x10, 0x10] ++ [0xF0, 0x80, 0xF0, 0x10, 0xF0] ++
  [0xF0, 0x80, 0xF0, 0x90, 0xF0] ++ [0xF0, 0x10, 0x20, 0x40, 0x40] ++
  [0xF0, 0x90, 0xF0, 0x90, 0xF0] ++ [0xF0, 0x90, 0xF0, 0x10, 0xF0] ++
  [0xF0, 0x90, 0xF0, 0x90, 0x90] ++ [0xE0, 0x90, 0xE0, 0x90, 0xE0] ++
  [0xF0, 0x80, 0x80, 0x80, 0xF0] ++ [0xE0, 0x90, 0x90, 0x90, 0xE0] ++
  [0xF0, 0x80, 0xF0, 0x80, 0xF0] ++ [0xF0, 0x80, 0xF0, 0x80, 0x80]

/-- What a byte of memory holds at construction, before the ROM is loaded: the font at FONT_BASE, else the
RESET_VALUES byte, 0 by default (R38, R48, R49). This is what an address that memory does not list reads as (log 9). -/
def Config.initialByte (c : Config) (a : Nat) : Byte :=
  if c.fontBase ≤ a ∧ a < c.fontBase + 80 then font.getD (a - c.fontBase) 0
  else c.resetValues.mem.getD a 0

/-- The configurations a machine is built from: the font lies in its region (R49; it is then below the bound of R21),
the reset index is 12 bits wide (R20), and a reset stack fits and holds return addresses a call can push (R24, R26;
log 14). -/
def Config.wf (c : Config) : Bool :=
  decide (c.fontBase + 80 ≤ programBase) && decide (c.resetValues.i.toNat < memSize)
    && decide (c.resetValues.stack.length ≤ c.stackDepth)
    && c.resetValues.stack.all (fun a => decide (a.toNat ≤ memSize))

end Sys2Proof
end

