-- ==== Sys2Proof/Syntax.lean ====
section
/-! DEFINITION. The instructions: one constructor per row of spec/opcode_table.json, in the table's order
(30_encoding.md R67). A field the instruction does not read (the low nibble of 5xyn and 9xyn, the `y` of 8xy6 and
8xyE) stays in the syntax, so that no bit of an encoding is lost. -/

namespace Sys2Proof

/-- The 34 instructions of the opcode map (R67). -/
inductive Instr where
  /-- `00E0` CLS (R71). -/
  | cls
  /-- `00EE` RET (R77). -/
  | ret
  /-- `1nnn` JP nnn (R78). -/
  | jp (nnn : Imm12)
  /-- `2nnn` CALL nnn (R79). -/
  | call (nnn : Imm12)
  /-- `3xkk` SE Vx, kk (R80). -/
  | seImm (x : Reg) (kk : Byte)
  /-- `4xkk` SNE Vx, kk (R81). -/
  | sneImm (x : Reg) (kk : Byte)
  /-- `5xyn` SE Vx, Vy; `n` is not read (R65, R82). -/
  | seReg (x y : Reg) (n : Nibble)
  /-- `6xkk` LD Vx, kk (R87). -/
  | ldImm (x : Reg) (kk : Byte)
  /-- `7xkk` ADD Vx, kk (R88). -/
  | addImm (x : Reg) (kk : Byte)
  /-- `8xy0` LD Vx, Vy (R89). -/
  | ldReg (x y : Reg)
  /-- `8xy1` OR Vx, Vy (R90). -/
  | orReg (x y : Reg)
  /-- `8xy2` AND Vx, Vy (R91). -/
  | andReg (x y : Reg)
  /-- `8xy3` XOR Vx, Vy (R92). -/
  | xorReg (x y : Reg)
  /-- `8xy4` ADD Vx, Vy (R93). -/
  | addReg (x y : Reg)
  /-- `8xy5` SUB Vx, Vy (R94). -/
  | subReg (x y : Reg)
  /-- `8xy6` SHR Vx; `y` is not read (R95). -/
  | shr (x y : Reg)
  /-- `8xy7` SUBN Vx, Vy (R96). -/
  | subnReg (x y : Reg)
  /-- `8xyE` SHL Vx; `y` is not read (R97). -/
  | shl (x y : Reg)
  /-- `9xyn` SNE Vx, Vy; `n` is not read (R65, R83). -/
  | sneReg (x y : Reg) (n : Nibble)
  /-- `Annn` LD I, nnn (R102). -/
  | ldIndex (nnn : Imm12)
  /-- `Bnnn` JP V0, nnn (R84). -/
  | jpV0 (nnn : Imm12)
  /-- `Cxkk` RND Vx, kk (R101). -/
  | rnd (x : Reg) (kk : Byte)
  /-- `Dxyn` DRW Vx, Vy, n (R72). -/
  | drw (x y : Reg) (n : Nibble)
  /-- `Ex9E` SKP Vx (R109). -/
  | skp (x : Reg)
  /-- `ExA1` SKNP Vx (R110). -/
  | sknp (x : Reg)
  /-- `Fx07` LD Vx, DT (R111). -/
  | ldFromDt (x : Reg)
  /-- `Fx0A` LD Vx, K (R112). -/
  | ldKey (x : Reg)
  /-- `Fx15` LD DT, Vx (R114). -/
  | ldDt (x : Reg)
  /-- `Fx18` LD ST, Vx (R115). -/
  | ldSt (x : Reg)
  /-- `Fx1E` ADD I, Vx (R103). -/
  | addIndex (x : Reg)
  /-- `Fx29` LD F, Vx (R104). -/
  | ldFont (x : Reg)
  /-- `Fx33` LD B, Vx (R105). -/
  | ldBcd (x : Reg)
  /-- `Fx55` LD [I], Vx (R106). -/
  | storeRegs (x : Reg)
  /-- `Fx65` LD Vx, [I] (R107). -/
  | loadRegs (x : Reg)
  deriving DecidableEq, Repr

end Sys2Proof
end

