-- ==== Sys2Proof/WellFormed.lean ====
section
/-! DEFINITION. Which instructions have an encoding. Operand widths are carried by the types of the fields; what is
left to check is the ignored low nibble of 5xyn and 9xyn, which must be 0 under STRICT_SKIP_REG_DECODE
(30_encoding.md R65). -/

namespace Sys2Proof

/-- The low nibble of a register skip is admitted by the decoder (R65): any value by default, 0 when strict. -/
def skipNibbleOk (c : Config) (n : Nibble) : Bool := !c.strictSkipRegDecode || n == 0

/-- The instruction has an encoding under the configuration (R65, R67). -/
def WellFormed (c : Config) : Instr → Bool
  | .cls => true
  | .ret => true
  | .jp _ => true
  | .call _ => true
  | .seImm _ _ => true
  | .sneImm _ _ => true
  | .seReg _ _ n => skipNibbleOk c n
  | .ldImm _ _ => true
  | .addImm _ _ => true
  | .ldReg _ _ => true
  | .orReg _ _ => true
  | .andReg _ _ => true
  | .xorReg _ _ => true
  | .addReg _ _ => true
  | .subReg _ _ => true
  | .shr _ _ => true
  | .subnReg _ _ => true
  | .shl _ _ => true
  | .sneReg _ _ n => skipNibbleOk c n
  | .ldIndex _ => true
  | .jpV0 _ => true
  | .rnd _ _ => true
  | .drw _ _ _ => true
  | .skp _ => true
  | .sknp _ => true
  | .ldFromDt _ => true
  | .ldKey _ => true
  | .ldDt _ => true
  | .ldSt _ => true
  | .addIndex _ => true
  | .ldFont _ => true
  | .ldBcd _ => true
  | .storeRegs _ => true
  | .loadRegs _ => true

end Sys2Proof
end

