-- ==== Sys2Proof/Decode.lean ====
section
/-! DEFINITION. The decoder (30_encoding.md R57 to R66): total on any bytes, refusing by name; and the encoder, written
from the opcode map (R67). -/

namespace Sys2Proof

/-- Why bytes do not decode. -/
inductive DecodeError where
  /-- Fewer than the two bytes every instruction has (R57). -/
  | truncated
  /-- The word matches no row of the opcode map (R68). -/
  | invalidOpcode (w : Word)
  deriving DecidableEq, Repr

/-- The big-endian word of two bytes, `hi` at the lower address (R42, R43). -/
def wordOfBytes (hi lo : Byte) : Word := BitVec.ofNat 16 (hi.toNat * 256 + lo.toNat)

/-- The byte at the lower address of a word's two (R42). -/
def highByte (w : Word) : Byte := w.extractLsb' 8 8

/-- The byte at the higher address of a word's two (R42). -/
def lowByte (w : Word) : Byte := w.extractLsb' 0 8

/-- `b1 = w[15:12]`, the major opcode (R58). -/
def fieldB1 (w : Word) : Nibble := w.extractLsb' 12 4

/-- `x = w[11:8]` (R58). -/
def fieldX (w : Word) : Reg := w.extractLsb' 8 4

/-- `y = w[7:4]` (R58). -/
def fieldY (w : Word) : Reg := w.extractLsb' 4 4

/-- `n = w[3:0]` (R58). -/
def fieldN (w : Word) : Nibble := w.extractLsb' 0 4

/-- `kk = w[7:0]` (R58). -/
def fieldKk (w : Word) : Byte := w.extractLsb' 0 8

/-- `nnn = w[11:0]` (R58). -/
def fieldNnn (w : Word) : Imm12 := w.extractLsb' 0 12

/-- Family 0x0: the whole word is examined (R61). -/
def decodeFamily0 (w : Word) : Option Instr :=
  match w.toNat with
  | 0x00E0 => some .cls
  | 0x00EE => some .ret
  | _ => none

/-- Family 0x8: `n` selects the operation (R62). -/
def decodeFamily8 (w : Word) : Option Instr :=
  match (fieldN w).toNat with
  | 0x0 => some (.ldReg (fieldX w) (fieldY w))
  | 0x1 => some (.orReg (fieldX w) (fieldY w))
  | 0x2 => some (.andReg (fieldX w) (fieldY w))
  | 0x3 => some (.xorReg (fieldX w) (fieldY w))
  | 0x4 => some (.addReg (fieldX w) (fieldY w))
  | 0x5 => some (.subReg (fieldX w) (fieldY w))
  | 0x6 => some (.shr (fieldX w) (fieldY w))
  | 0x7 => some (.subnReg (fieldX w) (fieldY w))
  | 0xE => some (.shl (fieldX w) (fieldY w))
  | _ => none

/-- Family 0xE: `kk` selects the operation (R63). -/
def decodeFamilyE (w : Word) : Option Instr :=
  match (fieldKk w).toNat with
  | 0x9E => some (.skp (fieldX w))
  | 0xA1 => some (.sknp (fieldX w))
  | _ => none

/-- Family 0xF: `kk` selects the operation (R64). -/
def decodeFamilyF (w : Word) : Option Instr :=
  match (fieldKk w).toNat with
  | 0x07 => some (.ldFromDt (fieldX w))
  | 0x0A => some (.ldKey (fieldX w))
  | 0x15 => some (.ldDt (fieldX w))
  | 0x18 => some (.ldSt (fieldX w))
  | 0x1E => some (.addIndex (fieldX w))
  | 0x29 => some (.ldFont (fieldX w))
  | 0x33 => some (.ldBcd (fieldX w))
  | 0x55 => some (.storeRegs (fieldX w))
  | 0x65 => some (.loadRegs (fieldX w))
  | _ => none

/-- Families 0x5 and 0x9: the low nibble is not examined, or must be 0 when the decode is strict (R65). -/
def decodeRegSkip (c : Config) (w : Word) (build : Reg → Reg → Nibble → Instr) : Option Instr :=
  if skipNibbleOk c (fieldN w) then some (build (fieldX w) (fieldY w) (fieldN w)) else none

/-- `decode(w)`: dispatch on `b1` (R60). `none` is the spec's `Invalid`. -/
def decodeWord (c : Config) (w : Word) : Option Instr :=
  match (fieldB1 w).toNat with
  | 0x0 => decodeFamily0 w
  | 0x1 => some (.jp (fieldNnn w))
  | 0x2 => some (.call (fieldNnn w))
  | 0x3 => some (.seImm (fieldX w) (fieldKk w))
  | 0x4 => some (.sneImm (fieldX w) (fieldKk w))
  | 0x5 => decodeRegSkip c w .seReg
  | 0x6 => some (.ldImm (fieldX w) (fieldKk w))
  | 0x7 => some (.addImm (fieldX w) (fieldKk w))
  | 0x8 => decodeFamily8 w
  | 0x9 => decodeRegSkip c w .sneReg
  | 0xA => some (.ldIndex (fieldNnn w))
  | 0xB => some (.jpV0 (fieldNnn w))
  | 0xC => some (.rnd (fieldX w) (fieldKk w))
  | 0xD => some (.drw (fieldX w) (fieldY w) (fieldN w))
  | 0xE => decodeFamilyE w
  | _ => decodeFamilyF w   -- a nibble that is none of 0 to 0xE is 0xF

/-- Decode the instruction at the head of a list of bytes: the instruction and the rest, or a refusal by name. -/
def decode (c : Config) : List Byte → Except DecodeError (Instr × List Byte)
  | hi :: lo :: rest =>
    match decodeWord c (wordOfBytes hi lo) with
    | some i => .ok (i, rest)
    | none => .error (.invalidOpcode (wordOfBytes hi lo))
  | _ => .error .truncated

/-- The word of four nibbles `b1 x y n`, most significant first (R58). -/
def layXYN (b1 x y n : Nibble) : Word :=
  BitVec.ofNat 16 (b1.toNat * 0x1000 + x.toNat * 0x100 + y.toNat * 0x10 + n.toNat)

/-- The word of format XKK or XSUB: `b1 x kk` (R58). -/
def layXKK (b1 x : Nibble) (kk : Byte) : Word :=
  BitVec.ofNat 16 (b1.toNat * 0x1000 + x.toNat * 0x100 + kk.toNat)

/-- The word of format NNN: `b1 nnn` (R58). -/
def layNNN (b1 : Nibble) (nnn : Imm12) : Word := BitVec.ofNat 16 (b1.toNat * 0x1000 + nnn.toNat)

/-- The word of an instruction (R67). -/
def encode : Instr → Word
  | .cls => 0x00E0
  | .ret => 0x00EE
  | .jp nnn => layNNN 0x1 nnn
  | .call nnn => layNNN 0x2 nnn
  | .seImm x kk => layXKK 0x3 x kk
  | .sneImm x kk => layXKK 0x4 x kk
  | .seReg x y n => layXYN 0x5 x y n
  | .ldImm x kk => layXKK 0x6 x kk
  | .addImm x kk => layXKK 0x7 x kk
  | .ldReg x y => layXYN 0x8 x y 0x0
  | .orReg x y => layXYN 0x8 x y 0x1
  | .andReg x y => layXYN 0x8 x y 0x2
  | .xorReg x y => layXYN 0x8 x y 0x3
  | .addReg x y => layXYN 0x8 x y 0x4
  | .subReg x y => layXYN 0x8 x y 0x5
  | .shr x y => layXYN 0x8 x y 0x6
  | .subnReg x y => layXYN 0x8 x y 0x7
  | .shl x y => layXYN 0x8 x y 0xE
  | .sneReg x y n => layXYN 0x9 x y n
  | .ldIndex nnn => layNNN 0xA nnn
  | .jpV0 nnn => layNNN 0xB nnn
  | .rnd x kk => layXKK 0xC x kk
  | .drw x y n => layXYN 0xD x y n
  | .skp x => layXKK 0xE x 0x9E
  | .sknp x => layXKK 0xE x 0xA1
  | .ldFromDt x => layXKK 0xF x 0x07
  | .ldKey x => layXKK 0xF x 0x0A
  | .ldDt x => layXKK 0xF x 0x15
  | .ldSt x => layXKK 0xF x 0x18
  | .addIndex x => layXKK 0xF x 0x1E
  | .ldFont x => layXKK 0xF x 0x29
  | .ldBcd x => layXKK 0xF x 0x33
  | .storeRegs x => layXKK 0xF x 0x55
  | .loadRegs x => layXKK 0xF x 0x65

/-- One row of the opcode map: a word `w` selects the row when `w & mask = match` (R67). -/
structure OpcodeRow where
  /-- Which bits the row examines. -/
  mask : Word
  /-- Their values. -/
  value : Word
  deriving DecidableEq, Repr

/-- The opcode map's row of an instruction (R67; the masks of 5xy0 and 9xy0 depend on STRICT_SKIP_REG_DECODE). -/
def opcodeRow (c : Config) : Instr → OpcodeRow
  | .cls => ⟨0xFFFF, 0x00E0⟩
  | .ret => ⟨0xFFFF, 0x00EE⟩
  | .jp _ => ⟨0xF000, 0x1000⟩
  | .call _ => ⟨0xF000, 0x2000⟩
  | .seImm _ _ => ⟨0xF000, 0x3000⟩
  | .sneImm _ _ => ⟨0xF000, 0x4000⟩
  | .seReg _ _ _ => ⟨if c.strictSkipRegDecode then 0xF00F else 0xF000, 0x5000⟩
  | .ldImm _ _ => ⟨0xF000, 0x6000⟩
  | .addImm _ _ => ⟨0xF000, 0x7000⟩
  | .ldReg _ _ => ⟨0xF00F, 0x8000⟩
  | .orReg _ _ => ⟨0xF00F, 0x8001⟩
  | .andReg _ _ => ⟨0xF00F, 0x8002⟩
  | .xorReg _ _ => ⟨0xF00F, 0x8003⟩
  | .addReg _ _ => ⟨0xF00F, 0x8004⟩
  | .subReg _ _ => ⟨0xF00F, 0x8005⟩
  | .shr _ _ => ⟨0xF00F, 0x8006⟩
  | .subnReg _ _ => ⟨0xF00F, 0x8007⟩
  | .shl _ _ => ⟨0xF00F, 0x800E⟩
  | .sneReg _ _ _ => ⟨if c.strictSkipRegDecode then 0xF00F else 0xF000, 0x9000⟩
  | .ldIndex _ => ⟨0xF000, 0xA000⟩
  | .jpV0 _ => ⟨0xF000, 0xB000⟩
  | .rnd _ _ => ⟨0xF000, 0xC000⟩
  | .drw _ _ _ => ⟨0xF000, 0xD000⟩
  | .skp _ => ⟨0xF0FF, 0xE09E⟩
  | .sknp _ => ⟨0xF0FF, 0xE0A1⟩
  | .ldFromDt _ => ⟨0xF0FF, 0xF007⟩
  | .ldKey _ => ⟨0xF0FF, 0xF00A⟩
  | .ldDt _ => ⟨0xF0FF, 0xF015⟩
  | .ldSt _ => ⟨0xF0FF, 0xF018⟩
  | .addIndex _ => ⟨0xF0FF, 0xF01E⟩
  | .ldFont _ => ⟨0xF0FF, 0xF029⟩
  | .ldBcd _ => ⟨0xF0FF, 0xF033⟩
  | .storeRegs _ => ⟨0xF0FF, 0xF055⟩
  | .loadRegs _ => ⟨0xF0FF, 0xF065⟩

/-- A word selects a row (R67). -/
def OpcodeRow.selects (r : OpcodeRow) (w : Word) : Bool := w &&& r.mask == r.value

/-- What the decoder reads from an instruction whose bits are `w`, numbered as spec/opcode_table.json numbers them
(bit 0 the least significant bit of the word), laid out big-endian as R42 stores it; default parameters (R8). -/
def decodeTableWord (nbits w : Nat) : Option Instr :=
  let bits : Word := BitVec.ofNat 16 (w % 2 ^ nbits)
  match decode Config.default [highByte bits, lowByte bits] with
  | .ok (i, _) => some i
  | .error _ => none

end Sys2Proof
end

