-- ==== Sys2Proof/Machine/State.lean ====
section
/-! DEFINITION. The state of one VM instance (10_state.md R16 to R40), with its parameters (R8), its place in the tick
(R39, R127) and its host interface (R135); the reset state (R38); the fault and refusal reasons. -/

namespace Sys2Proof.Machine

/-- Why a VM instance ended (60_exceptions.md R117). -/
inductive FatalReason where
  /-- A fetch at `pc ≥ 0xFFF`; records the pc of the failed fetch. -/
  | fetchOutOfRange (pc : Word)
  /-- Dxyn or Fx65 past the end of memory; records the first out-of-range address. -/
  | memReadOutOfRange (addr : Nat)
  /-- Fx33 or Fx55 past the end of memory; records the first out-of-range address. -/
  | memWriteOutOfRange (addr : Nat)
  /-- 00EE with an empty stack. -/
  | stackUnderflow
  /-- 2nnn with a full stack. -/
  | stackOverflow
  /-- Ex9E or ExA1 with `Vx > 15` under the fatal policy; records the key index. -/
  | keyIndexOutOfRange (k : Byte)
  deriving DecidableEq, Repr

/-- The execution status of the instance (R31). -/
inductive Status where
  | live
  | fatal (r : FatalReason)
  deriving DecidableEq, Repr

/-- The observable run mode (R29, R30). -/
inductive RunMode where
  | running
  | paused
  | waitingForKey
  deriving DecidableEq, Repr

/-- Where the machine stands in the Scheduler's tick (R39, R127). DESIGN CHOICE, safe (log 4). -/
inductive Phase where
  /-- Between ticks: the host acts next (R121, R125). -/
  | between
  /-- In a tick, with so many of its `IPT` cycle slots left (R127, R149). -/
  | slots (left : Nat)
  /-- The host has quit: no further tick (R134). -/
  | stopped
  deriving DecidableEq, Repr

/-- What the host may do to a live instance (R135), between ticks. -/
inductive HostCall where
  /-- One frame: the key states now, and the last key pressed in the frame, if any (R127, R129, R130). -/
  | tick (keysNow : KeyTable) (pressed : Option Reg)
  /-- The controller's pause toggle (R132). -/
  | togglePause
  /-- The controller's reset request (R134, R141). -/
  | reset
  /-- The controller's quit request (R134). -/
  | quit
  deriving DecidableEq, Repr

/-- What a completed tick gives back to the host (R131, R133, R135). -/
structure TickResult where
  /-- The copy of the framebuffer at the end of the tick (R131). -/
  snapshot : Framebuffer
  /-- The Paused flag the renderer consumes (R131). -/
  paused : Bool
  /-- The sound output, `ST > 0` (R133, spec decision D21). -/
  sound : Bool
  deriving DecidableEq, Repr

/-- Memory as a list of address and byte pairs, addresses strictly rising, no entry equal to what an unlisted address
reads as (R35; canonical form stated by `Memory.wf`). -/
abbrev Memory := List Host.Cell

/-- One VM instance with its host interface. -/
structure State where
  /-- The parameters (R8, R40), fixed for the instance. DESIGN CHOICE, safe (log 2). -/
  cfg : Config
  /-- The ROM bytes the host supplied; a reset rebuilds from them (R141, spec decision D23). -/
  rom : List Byte
  /-- The 4096 bytes of memory (R35). -/
  mem : Memory
  /-- V0 to VF (R16). -/
  v : Vector Byte 16
  /-- The index register I (R20). -/
  i : Word
  /-- The program counter (R22). -/
  pc : Word
  /-- The call stack, top last (R26). -/
  stack : List Word
  /-- The delay timer (R28). -/
  dt : Byte
  /-- The sound timer (R28). -/
  st : Byte
  /-- The framebuffer (R33). -/
  fb : Framebuffer
  /-- The key table (R34). -/
  keys : KeyTable
  /-- Paused by the host (R30). -/
  paused : Bool
  /-- The register a pending Fx0A will fill (R30). -/
  waiting : Option Reg
  /-- The execution status (R31). -/
  status : Status
  /-- The invalid-opcode log, oldest first (R32). -/
  log : List Word
  /-- The place in the tick (R39, R127; log 4). -/
  phase : Phase
  /-- What the last tick returned to the host, `none` while a tick runs (R131, R135; log 10). -/
  out : Option TickResult
  /-- The host's calls still to be served, oldest first (R135; log 5). -/
  calls : List HostCall
  /-- How many random bytes were drawn (R101; log 3). -/
  draws : Nat
  /-- How many ticks took free values as their inputs (R129, R130; log 5). -/
  frames : Nat
  deriving DecidableEq, Repr

/-- Why the machine stops. Neither is raised by an instruction: a fatal condition of R117 is a next state with its
`status` written, as R118 says (log 1). -/
inductive Fault where
  /-- Raised by `step` once the host has quit: there is no further tick (R134). Safe (log 12). -/
  | hostQuit
  /-- Raised by the service of a reset call when no instance can be constructed: the ROM is too long or the
  configuration is rejected (R21, R50, R141). Safe (log 13). -/
  | constructionFailed
  deriving DecidableEq, Repr

/-- Why an instruction has no meaning. No arm of `exec` answers so. -/
inductive Refusal where
  /-- Raised by an arm of `exec` for an instruction without a meaning. Safe. -/
  | notModelled (mnemonic : String)
  deriving DecidableEq, Repr

/-- The state after construction with the default parameters and no ROM (R38, R141 to R143). The values of R38 are the
spec's (log 7); those of `rom`, `phase`, `out`, `calls`, `draws` and `frames` are the model's (log 8). -/
def State.reset : State where
  cfg := Config.default
  rom := []
  mem := []
  v := Vector.replicate 16 0
  i := 0
  pc := 0x200
  stack := []
  dt := 0
  st := 0
  fb := Vector.replicate 64 (Vector.replicate 32 false)
  keys := Vector.replicate 16 false
  paused := false
  waiting := none
  status := .live
  log := []
  phase := .between
  out := none
  calls := []
  draws := 0
  frames := 0

end Sys2Proof.Machine
end

