-- ==== Sys2Proof/Machine/Ops.lean ====
section
/-! DEFINITION. The named operations over memory, registers, stack, framebuffer and status; taking a fatal condition
(60_exceptions.md R118), the one exception this machine has; fetch (R42, R59). There is no return from it (R123). -/

namespace Sys2Proof.Machine

/-! ### Memory: the canonical list (R35, R41, R44) -/

/-- The first listed address is above `a`. -/
def Memory.above (a : Nat) : Memory → Bool
  | [] => true
  | (k, _) :: _ => decide (a < k)

/-- The canonical form under a configuration: addresses strictly rising and below 4096, no entry equal to what an
unlisted address reads as. -/
def Memory.wf (c : Config) : Memory → Bool
  | [] => true
  | (a, b) :: rest =>
    decide (a < memSize) && decide (b ≠ c.initialByte a) && Memory.above a rest && Memory.wf c rest

/-- The byte listed at an address, if any. -/
def Memory.find (a : Nat) : Memory → Option Byte
  | [] => none
  | (k, b) :: rest => if k = a then some b else Memory.find a rest

/-- The byte at an address: the listed one, else the construction content (R38, R46). -/
def Memory.read (c : Config) (m : Memory) (a : Nat) : Byte := (m.find a).getD (c.initialByte a)

/-- List a byte at an address, keeping the addresses rising. -/
def Memory.insert (a : Nat) (b : Byte) : Memory → Memory
  | [] => [(a, b)]
  | (k, v) :: rest =>
    if a < k then (a, b) :: (k, v) :: rest
    else if a = k then (a, b) :: rest
    else (k, v) :: Memory.insert a b rest

/-- Take an address off the list. -/
def Memory.erase (a : Nat) : Memory → Memory
  | [] => []
  | (k, v) :: rest => if k = a then rest else (k, v) :: Memory.erase a rest

/-- Store a byte, keeping the canonical form: a byte equal to the construction content is not listed. -/
def Memory.write (c : Config) (m : Memory) (a : Nat) (b : Byte) : Memory :=
  if b = c.initialByte a then m.erase a else m.insert a b

/-- Store bytes at consecutive ascending addresses from `a` (R44). -/
def Memory.writeBlock (c : Config) (m : Memory) (a : Nat) : List Byte → Memory
  | [] => m
  | b :: rest => Memory.writeBlock c (m.write c a b) (a + 1) rest

/-- The byte of memory at an address below 4096 (R46). -/
def State.byteAt (s : State) (a : Nat) : Byte := s.mem.read s.cfg a

/-- `MemRead(addr, 1)`: `none` outside `0..4095` (R11, R52). -/
def State.memRead (s : State) (a : Nat) : Option Byte := if a < memSize then some (s.byteAt a) else none

/-- `n` bytes at consecutive ascending addresses from `a` (R44). -/
def State.bytesAt (s : State) (a : Nat) : Nat → List Byte
  | 0 => []
  | n + 1 => s.byteAt a :: s.bytesAt (a + 1) n

/-- Store bytes from `a` on. Every caller has checked the whole range before (R108). -/
def State.storeBytes (s : State) (a : Nat) (bs : List Byte) : State :=
  { s with mem := s.mem.writeBlock s.cfg a bs }

/-! ### Registers (R10, R16 to R22) -/

/-- `V[x]`. -/
def State.reg (s : State) (x : Reg) : Byte := s.v[x.toNat]'x.isLt

/-- `V[x] <- b`; no register is hardwired (R18). -/
def State.setReg (s : State) (x : Reg) (b : Byte) : State := { s with v := s.v.set x.toNat b x.isLt }

/-- The number of VF (R13, R17). -/
abbrev vf : Reg := 15

/-- `I <- n`, reduced modulo 4096 as every write to I is (R20). -/
def State.setIndex (s : State) (n : Nat) : State := { s with i := BitVec.ofNat 16 (n % memSize) }

/-- `pc <- target` (R10). -/
def State.setPc (s : State) (a : Word) : State := { s with pc := a }

/-- The advance `pc <- pc + 2`: of the fetch (R22, R59), and once more of a taken skip (R85). -/
def State.advance (s : State) : State := s.setPc (s.pc + 2)

/-- A skip: when its condition holds the pc moves one instruction further (R85). -/
def State.skipIf (s : State) (cond : Bool) : State := if cond then s.advance else s

/-- `DT <- b` (R28). -/
def State.setDt (s : State) (b : Byte) : State := { s with dt := b }

/-- `ST <- b` (R28). -/
def State.setSt (s : State) (b : Byte) : State := { s with st := b }

/-- Replace the framebuffer (R33). -/
def State.setFb (s : State) (f : Framebuffer) : State := { s with fb := f }

/-- Replace the call stack (R26). -/
def State.setStack (s : State) (l : List Word) : State := { s with stack := l }

/-- `waiting <- some x`: the run mode becomes WaitingForKey (R30, R112). -/
def State.awaitKey (s : State) (x : Reg) : State := { s with waiting := some x }

/-- Append a word to the invalid-opcode log (R12, R32, R120). -/
def State.logInvalid (s : State) (w : Word) : State := { s with log := s.log ++ [w] }

/-! ### The framebuffer (R33, R73, R74) -/

/-- The cell at column `x` and row `y`, taken modulo the dimensions (R33, R74). -/
def cellAt (f : Framebuffer) (x y : Nat) : Bool :=
  (f[x % 64]'(Nat.mod_lt x (by decide)))[y % 32]'(Nat.mod_lt y (by decide))

/-- Write that cell. -/
def setCell (f : Framebuffer) (x y : Nat) (b : Bool) : Framebuffer :=
  f.set (x % 64)
    ((f[x % 64]'(Nat.mod_lt x (by decide))).set (y % 32) b (Nat.mod_lt y (by decide)))
    (Nat.mod_lt x (by decide))

/-- `clear()` (R73). -/
def clearedFb : Framebuffer := Vector.replicate 64 (Vector.replicate 32 false)

/-- `set_pixel(px, py)`: toggle the wrapped cell, and say whether it went from 1 to 0 (R73). -/
def setPixel (f : Framebuffer) (px py : Nat) : Framebuffer × Bool :=
  (setCell f px py (!cellAt f px py), cellAt f px py)

/-- Column `c` of a sprite row: bit 7 is the leftmost pixel (R75, spec decision D5). -/
def spriteBit (row : Byte) (c : Nat) : Bool := row.getLsbD (7 - c)

/-- Draw the columns listed of one sprite row, carrying the framebuffer and whether any pixel collided (R72). -/
def drawCols (row : Byte) (px py : Nat) : List Nat → Framebuffer × Bool → Framebuffer × Bool
  | [], a => a
  | c :: rest, a =>
    if spriteBit row c then
      let r := setPixel a.1 (px + c) py
      drawCols row px py rest (r.1, a.2 || r.2)
    else drawCols row px py rest a

/-- Draw sprite rows from the top, 8 columns each (R72, R75). -/
def drawRows (px : Nat) : Nat → List Byte → Framebuffer × Bool → Framebuffer × Bool
  | _, [], a => a
  | py, row :: rest, a => drawRows px (py + 1) rest (drawCols row px py [0, 1, 2, 3, 4, 5, 6, 7] a)

/-! ### Taking a fatal condition (R117 to R119) -/

/-- `raise Fatal(reason)`: `status <- Fatal(reason)`, and the current tick ends at once, with no further cycle, no
timer decrement and no snapshot (R12, R118). Nothing else changes (R119; log 1). -/
def State.raiseFatal (s : State) (r : FatalReason) : State := { s with status := .fatal r, phase := .between }

/-! ### The run mode and the fetch (R30, R42, R59) -/

/-- The observable run mode (R30). -/
def State.runMode (s : State) : RunMode :=
  if s.paused then .paused else if s.waiting.isSome then .waitingForKey else .running

/-- A cycle is performed only when this holds (R59, R127). -/
def State.running (s : State) : Bool := decide (s.status = .live) && !s.paused && s.waiting.isNone

/-- The two bytes at the pc, each read bounds-checked, the first the high byte; `none` when either read is out of
range (R42). -/
def State.fetch (s : State) : Option Word :=
  match s.memRead s.pc.toNat, s.memRead (s.pc.toNat + 1) with
  | some hi, some lo => some (wordOfBytes hi lo)
  | _, _ => none

end Sys2Proof.Machine
end

