-- ==== Sys2Proof/Machine/Operands.lean ====
section
/-! DEFINITION. Operand forms (30_encoding.md R66), the range check of a block access (43_index_memory.md R108), the
key index (44_timers_keys.md R113), the decimal digits (R105), the register block (R106, R107) and the random draw
(42_alu.md R101). -/

namespace Sys2Proof.Machine

/-- The 12-bit immediate as a 16-bit address, zero-extended (R66). -/
def immAddr (nnn : Imm12) : Word := nnn.setWidth 16

/-- The range check of a block access of `len` bytes from `a`, made before its first access (R108). -/
def blockInRange (a : Word) (len : Nat) : Bool := decide (len = 0) || decide (a.toNat + len - 1 < memSize)

/-- The first out-of-range address, which every failed block access records (R108, R117). -/
abbrev firstBadAddr : Nat := 4096

/-- The key that a register value names, or the fatal reason (R113). -/
def keyIndex (c : Config) (b : Byte) : Except FatalReason Reg :=
  match c.keyIndexPolicy with
  | .lowNibble => .ok (b.setWidth 4)
  | .fatal => if 15 < b.toNat then .error (.keyIndexOutOfRange b) else .ok (b.setWidth 4)

/-- The key table's flag of a key (R34). -/
def State.keyDown (s : State) (k : Reg) : Bool := s.keys[k.toNat]'k.isLt

/-- The three decimal digits of a byte, hundreds first (R105). -/
def decimalDigits (b : Byte) : List Byte :=
  [BitVec.ofNat 8 (b.toNat / 100), BitVec.ofNat 8 (b.toNat / 10 % 10), BitVec.ofNat 8 (b.toNat % 10)]

/-- V0 to Vx, in order (R106). -/
def State.regsUpTo (s : State) (x : Reg) : List Byte := s.v.toList.take (x.toNat + 1)

/-- V0 to Vx loaded from consecutive bytes of memory from `a`, the registers above `x` unchanged (R107). -/
def State.loadRegsFrom (s : State) (a : Nat) (x : Reg) : State :=
  { s with v := Vector.ofFn fun r : Fin 16 => if r.val ≤ x.toNat then s.byteAt (a + r.val) else s.v[r.val] }

/-- `draw Random()`: the byte drawn, a free value, and the state in which the next draw is another one (R12, R101;
log 3). -/
def State.drawRandom (s : State) : Byte × State := (Config.randomByte s.draws, { s with draws := s.draws + 1 })

end Sys2Proof.Machine
end

