-- ==== Sys2Proof/Machine/Flags.lean ====
section
/-! DEFINITION. The flag computations (10_state.md R37) and the order of flag and result (42_alu.md R98). -/

namespace Sys2Proof.Machine

/-- A condition as the value VF holds. -/
def flagByte (b : Bool) : Byte := if b then 1 else 0

/-- Carry of 8xy4: 1 when the exact sum exceeds 255 (R93). -/
def carryFlag (a b : Byte) : Byte := flagByte (decide (255 < a.toNat + b.toNat))

/-- No borrow of `a - b`: 1 when `a ≥ b` (R94, R96). -/
def noBorrowFlag (a b : Byte) : Byte := flagByte (decide (b.toNat ≤ a.toNat))

/-- The bit a right shift drops, bit 0 (R95). -/
def lsbFlag (a : Byte) : Byte := a &&& 1

/-- The bit a left shift drops, bit 7 (R97). -/
def msbFlag (a : Byte) : Byte := (a >>> 7) &&& 1

/-- An operation on `V[x]` and `V[y]` that writes a flag to VF and then its result to `V[x]`, the result last, so that
it is what VF holds when `x` is 15. Latched: the operands are read once, before any write. Sequential: the store reads
them again after VF was written (R98). -/
def State.flagThenResult (s : State) (x y : Reg) (flag result : Byte → Byte → Byte) : State :=
  let flagged := s.setReg vf (flag (s.reg x) (s.reg y))
  match s.cfg.flagOperandOrder with
  | .latched => flagged.setReg x (result (s.reg x) (s.reg y))
  | .sequential => flagged.setReg x (result (flagged.reg x) (flagged.reg y))

end Sys2Proof.Machine
end

