-- ==== Sys2Proof/Machine/Alu.lean ====
section
/-! DEFINITION. The register loads and arithmetic (42_alu.md R87 to R101). Sums and differences are taken modulo 256
(R99), which is what BitVec addition and subtraction of bytes are. -/

namespace Sys2Proof.Machine

/-- LD Vx, kk (R87). -/
def execLdImm (x : Reg) (kk : Byte) (s : State) : Host.Outcome State Fault Refusal := .next (s.setReg x kk)

/-- ADD Vx, kk: no flag (R88). -/
def execAddImm (x : Reg) (kk : Byte) (s : State) : Host.Outcome State Fault Refusal :=
  .next (s.setReg x (s.reg x + kk))

/-- LD Vx, Vy (R89). -/
def execLdReg (x y : Reg) (s : State) : Host.Outcome State Fault Refusal := .next (s.setReg x (s.reg y))

/-- OR Vx, Vy: no flag (R90). -/
def execOrReg (x y : Reg) (s : State) : Host.Outcome State Fault Refusal :=
  .next (s.setReg x (s.reg x ||| s.reg y))

/-- AND Vx, Vy: no flag (R91). -/
def execAndReg (x y : Reg) (s : State) : Host.Outcome State Fault Refusal :=
  .next (s.setReg x (s.reg x &&& s.reg y))

/-- XOR Vx, Vy: no flag (R92). -/
def execXorReg (x y : Reg) (s : State) : Host.Outcome State Fault Refusal :=
  .next (s.setReg x (s.reg x ^^^ s.reg y))

/-- ADD Vx, Vy: the sum is taken before any write, under either flag order (R93, R98). -/
def execAddReg (x y : Reg) (s : State) : Host.Outcome State Fault Refusal :=
  let sum := s.reg x + s.reg y
  .next ((s.setReg vf (carryFlag (s.reg x) (s.reg y))).setReg x sum)

/-- SUB Vx, Vy (R94). -/
def execSubReg (x y : Reg) (s : State) : Host.Outcome State Fault Refusal :=
  .next (s.flagThenResult x y noBorrowFlag (fun a b => a - b))

/-- SHR Vx; the `y` field is not read (R95). -/
def execShr (x _y : Reg) (s : State) : Host.Outcome State Fault Refusal :=
  .next (s.flagThenResult x x (fun a _ => lsbFlag a) (fun a _ => a >>> 1))

/-- SUBN Vx, Vy (R96). -/
def execSubnReg (x y : Reg) (s : State) : Host.Outcome State Fault Refusal :=
  .next (s.flagThenResult x y (fun a b => noBorrowFlag b a) (fun a b => b - a))

/-- SHL Vx; the `y` field is not read (R97). -/
def execShl (x _y : Reg) (s : State) : Host.Outcome State Fault Refusal :=
  .next (s.flagThenResult x x (fun a _ => msbFlag a) (fun a _ => a <<< 1))

/-- RND Vx, kk: a byte drawn afresh, masked (R101). -/
def execRnd (x : Reg) (kk : Byte) (s : State) : Host.Outcome State Fault Refusal :=
  let draw := s.drawRandom
  .next (draw.2.setReg x (draw.1 &&& kk))

end Sys2Proof.Machine
end

