-- ==== Sys2Proof/Machine/Control.lean ====
section
/-! DEFINITION. The control-flow instructions (41_control_flow.md R77 to R86). The pc was advanced by the fetch. -/

namespace Sys2Proof.Machine

/-- RET: the popped value becomes the pc; fatal on an empty stack (R77). -/
def execRet (s : State) : Host.Outcome State Fault Refusal :=
  match s.stack.getLast? with
  | none => .next (s.raiseFatal .stackUnderflow)
  | some a => .next ((s.setStack s.stack.dropLast).setPc a)

/-- JP nnn (R78). -/
def execJp (nnn : Imm12) (s : State) : Host.Outcome State Fault Refusal := .next (s.setPc (immAddr nnn))

/-- CALL nnn: push the advanced pc; fatal when the stack holds STACK_DEPTH entries (R79; `≥` for a stack longer than
any run reaches, log 17). -/
def execCall (nnn : Imm12) (s : State) : Host.Outcome State Fault Refusal :=
  if s.cfg.stackDepth ≤ s.stack.length then .next (s.raiseFatal .stackOverflow)
  else .next ((s.setStack (s.stack ++ [s.pc])).setPc (immAddr nnn))

/-- SE Vx, kk (R80). -/
def execSeImm (x : Reg) (kk : Byte) (s : State) : Host.Outcome State Fault Refusal :=
  .next (s.skipIf (s.reg x == kk))

/-- SNE Vx, kk (R81). -/
def execSneImm (x : Reg) (kk : Byte) (s : State) : Host.Outcome State Fault Refusal :=
  .next (s.skipIf (s.reg x != kk))

/-- SE Vx, Vy; the low nibble is not read (R65, R82). -/
def execSeReg (x y : Reg) (_n : Nibble) (s : State) : Host.Outcome State Fault Refusal :=
  .next (s.skipIf (s.reg x == s.reg y))

/-- SNE Vx, Vy; the low nibble is not read (R65, R83). -/
def execSneReg (x y : Reg) (_n : Nibble) (s : State) : Host.Outcome State Fault Refusal :=
  .next (s.skipIf (s.reg x != s.reg y))

/-- JP V0, nnn: the sum is not reduced (R84). -/
def execJpV0 (nnn : Imm12) (s : State) : Host.Outcome State Fault Refusal :=
  .next (s.setPc (immAddr nnn + (s.reg 0).setWidth 16))

end Sys2Proof.Machine
end

