-- ==== Sys2Proof/Machine/Display.lean ====
section
/-! DEFINITION. The display instructions 00E0 and Dxyn (40_display.md R71 to R76). -/

namespace Sys2Proof.Machine

/-- CLS (R71). -/
def execCls (s : State) : Host.Outcome State Fault Refusal := .next (s.setFb clearedFb)

/-- The framebuffer after a sprite of `n` rows from memory at I is drawn at column `px` and row `py`, and whether any
pixel was cleared (R72). -/
def State.drawSprite (s : State) (px py n : Nat) : Framebuffer × Bool :=
  drawRows px py (s.bytesAt s.i.toNat n) (s.fb, false)

/-- DRW Vx, Vy, n: the range is checked before any pixel changes, the coordinates are read before VF is written, VF is
written last (R72, R108). -/
def execDrw (x y : Reg) (n : Nibble) (s : State) : Host.Outcome State Fault Refusal :=
  if blockInRange s.i n.toNat then
    let drawn := s.drawSprite (s.reg x).toNat (s.reg y).toNat n.toNat
    .next ((s.setFb drawn.1).setReg vf (flagByte drawn.2))
  else .next (s.raiseFatal (.memReadOutOfRange firstBadAddr))

end Sys2Proof.Machine
end

