-- ==== Sys2Proof/Machine/IndexMemory.lean ====
section
/-! DEFINITION. The index register and the block memory instructions (43_index_memory.md R102 to R108). I is unchanged
by the three block transfers. -/

namespace Sys2Proof.Machine

/-- LD I, nnn (R102). -/
def execLdIndex (nnn : Imm12) (s : State) : Host.Outcome State Fault Refusal := .next (s.setIndex nnn.toNat)

/-- ADD I, Vx: modulo 4096, no flag (R103). -/
def execAddIndex (x : Reg) (s : State) : Host.Outcome State Fault Refusal :=
  .next (s.setIndex (s.i.toNat + (s.reg x).toNat))

/-- LD F, Vx: the full byte is multiplied (R104). -/
def execLdFont (x : Reg) (s : State) : Host.Outcome State Fault Refusal :=
  .next (s.setIndex (s.cfg.fontBase + (s.reg x).toNat * 5))

/-- Store bytes at I after the range check of the whole block (R108). -/
def State.storeAtIndex (s : State) (bs : List Byte) : State :=
  if blockInRange s.i bs.length then s.storeBytes s.i.toNat bs
  else s.raiseFatal (.memWriteOutOfRange firstBadAddr)

/-- LD B, Vx (R105). -/
def execLdBcd (x : Reg) (s : State) : Host.Outcome State Fault Refusal :=
  .next (s.storeAtIndex (decimalDigits (s.reg x)))

/-- LD [I], Vx: V0 to Vx (R106). -/
def execStoreRegs (x : Reg) (s : State) : Host.Outcome State Fault Refusal :=
  .next (s.storeAtIndex (s.regsUpTo x))

/-- LD Vx, [I]: V0 to Vx (R107). -/
def execLoadRegs (x : Reg) (s : State) : Host.Outcome State Fault Refusal :=
  if blockInRange s.i (x.toNat + 1) then .next (s.loadRegsFrom s.i.toNat x)
  else .next (s.raiseFatal (.memReadOutOfRange firstBadAddr))

end Sys2Proof.Machine
end

