-- ==== Sys2Proof/Machine/KeysTimers.lean ====
section
/-! DEFINITION. The key and timer instructions (44_timers_keys.md R109 to R116). -/

namespace Sys2Proof.Machine

/-- A key skip: the index is checked first, then the key's flag is compared (R109, R110, R113). -/
def State.keySkip (s : State) (x : Reg) (down : Bool) : State :=
  match keyIndex s.cfg (s.reg x) with
  | .error r => s.raiseFatal r
  | .ok k => s.skipIf (s.keyDown k == down)

/-- SKP Vx (R109). -/
def execSkp (x : Reg) (s : State) : Host.Outcome State Fault Refusal := .next (s.keySkip x true)

/-- SKNP Vx (R110). -/
def execSknp (x : Reg) (s : State) : Host.Outcome State Fault Refusal := .next (s.keySkip x false)

/-- LD Vx, DT (R111). -/
def execLdFromDt (x : Reg) (s : State) : Host.Outcome State Fault Refusal := .next (s.setReg x s.dt)

/-- LD Vx, K: enter WaitingForKey; `Vx` is written at the resolution, by a later tick (R112, R130). -/
def execLdKey (x : Reg) (s : State) : Host.Outcome State Fault Refusal := .next (s.awaitKey x)

/-- LD DT, Vx (R114). -/
def execLdDt (x : Reg) (s : State) : Host.Outcome State Fault Refusal := .next (s.setDt (s.reg x))

/-- LD ST, Vx (R115). -/
def execLdSt (x : Reg) (s : State) : Host.Outcome State Fault Refusal := .next (s.setSt (s.reg x))

end Sys2Proof.Machine
end

