-- ==== Sys2Proof/Machine/Tick.lean ====
section
/-! DEFINITION. Construction (70_reset_and_hazards.md R141) and the host's side of the tick: its start, its end and the
other calls of the host (60_exceptions.md R125 to R135). -/

namespace Sys2Proof.Machine

/-- The longest ROM: the program region's 3584 bytes (R47, R50). -/
abbrev maxRomLength : Nat := memSize - programBase

/-- `construct(rom)`: `none` when the configuration is rejected or the ROM does not fit (R21, R50, R141). Nothing is
pending and no tick runs in a new instance (log 8). -/
def State.construct (c : Config) (rom : List Byte) : Option State :=
  if c.wf && decide (rom.length ≤ maxRomLength) then
    some {
      cfg := c
      rom := rom
      mem := Memory.writeBlock c [] programBase rom
      v := c.resetValues.v
      i := c.resetValues.i
      pc := BitVec.ofNat 16 programBase
      stack := c.resetValues.stack
      dt := c.resetValues.dt
      st := c.resetValues.st
      fb := c.resetValues.fb
      keys := c.resetValues.keys
      paused := false
      waiting := none
      status := .live
      log := c.resetValues.log
      phase := .between
      out := none
      calls := []
      draws := 0
      frames := 0 }
  else none

/-- The reset request: the instance is discarded and a fresh one is constructed from the same ROM and parameters; the
host's later calls and the counters of the free values are not the instance's and go on (R134, R141, D23; log 11). -/
def State.restart (s : State) : Host.Outcome State Fault Refusal :=
  match State.construct s.cfg s.rom with
  | none => .fault .constructionFailed
  | some t => .next { t with calls := s.calls, draws := s.draws, frames := s.frames }

/-- The key-press resolution at the start of a tick (R127, R130): ignored while paused, and when nothing waits. -/
def State.resolveKey (s : State) (pressed : Option Reg) : State :=
  if s.paused then s
  else
    match s.waiting with
    | none => s
    | some x =>
      match pressed with
      | none => s
      | some k => { s.setReg x (k.setWidth 8) with waiting := none }

/-- The start of `tick(keysNow, pressed)`: no effect on an instance that is not Live; else the key table is refreshed,
a key wait may be resolved, and the tick's `IPT` slots begin (R118, R127, R129, R130). -/
def State.beginTick (s : State) (keysNow : KeyTable) (pressed : Option Reg) : State :=
  match s.status with
  | .fatal _ => s
  | .live =>
    State.resolveKey { s with keys := keysNow, phase := .slots s.cfg.ipt, out := none } pressed

/-- One decrement of a timer, floored at 0 (R128). -/
def countDown (b : Byte) : Byte := if b = 0 then 0 else b - 1

/-- What the tick gives back (R131, R133, R135). -/
def State.tickResult (s : State) : TickResult :=
  { snapshot := s.fb, paused := s.paused, sound := decide (0 < s.st.toNat) }

/-- Both timers decrease, unless paused (R127, R128). -/
def State.decrementTimers (s : State) : State :=
  if s.paused then s else { s with dt := countDown s.dt, st := countDown s.st }

/-- The end of a tick: the timers decrease, then the host gets the tick's result (R127). A tick that a fatal condition
ended gets neither (R118). -/
def State.endTick (s : State) : State :=
  match s.status with
  | .fatal _ => { s with phase := .between }
  | .live =>
    let t := s.decrementTimers
    { t with phase := .between, out := some t.tickResult }

/-- Serve one call of the host, between ticks (R121, R135). A pause toggle flips `paused` and leaves `waiting` (R132).
When no call is pending the host ticks, with free values as its inputs (log 5). -/
def State.serveHost (s : State) : Host.Outcome State Fault Refusal :=
  match s.calls with
  | [] =>
    .next (State.beginTick { s with frames := s.frames + 1 } (Config.frameKeys s.frames) (Config.framePress s.frames))
  | .tick keysNow pressed :: rest => .next (State.beginTick { s with calls := rest } keysNow pressed)
  | .togglePause :: rest => .next { s with calls := rest, paused := !s.paused }
  | .reset :: rest => State.restart { s with calls := rest }
  | .quit :: rest => .next { s with calls := rest, phase := .stopped }

/-- Make the next step a cycle of a Live, Running instance in a tick: a slot that is left stays, else the tick's slots
begin (R59, R127; log 6). -/
def State.readyToCycle (s : State) : State :=
  { s with
    paused := false
    waiting := none
    status := .live
    phase := match s.phase with
      | .slots (k + 1) => .slots (k + 1)
      | _ => .slots (max 1 s.cfg.ipt) }

end Sys2Proof.Machine
end

