-- ==== Sys2Proof/Machine/Step.lean ====
section
/-! DEFINITION. One step of the machine: one call of the host between ticks, or one cycle slot of a tick, or a tick's
end (30_encoding.md R59, 60_exceptions.md R127; log 4). -/

namespace Sys2Proof.Machine

/-- One instruction cycle: fetch, advance the pc, decode, execute; an invalid word is logged and skipped, a failed
fetch is fatal (R59, R117, R120). -/
def State.cycle (s : State) : Host.Outcome State Fault Refusal :=
  match s.fetch with
  | none => .next (s.raiseFatal (.fetchOutOfRange s.pc))
  | some w =>
    match decodeWord s.cfg w with
    | none => .next (s.advance.logInvalid w)
    | some i => exec i s.advance

/-- One cycle slot: a cycle when the instance is Live and Running, else a skip (R127, R149). -/
def State.slot (s : State) : Host.Outcome State Fault Refusal := if s.running then s.cycle else .next s

/-- One step. -/
def step (s : State) : Host.Outcome State Fault Refusal :=
  match s.phase with
  | .stopped => .fault .hostQuit
  | .between => s.serveHost
  | .slots 0 => .next s.endTick
  | .slots (k + 1) => State.slot { s with phase := .slots k }

/-- The state with an instruction stored where the next step fetches it, and that step made a cycle; the word is stored
big-endian at the pc (R42; log 6). At a pc no fetch can read from, nothing is stored. -/
def State.withFetchWord (s : State) (nbits w : Nat) : State :=
  let bits : Word := BitVec.ofNat 16 (w % 2 ^ nbits)
  if s.pc.toNat + 1 < memSize then (s.storeBytes s.pc.toNat [highByte bits, lowByte bits]).readyToCycle
  else s.readyToCycle

end Sys2Proof.Machine
end

