-- ==== Sys2Proof/Safety.lean ====
section
/-! DEFINITION. What counts as a safe run and how a run ends (60_exceptions.md R118, R139), the invariant of the machine
(10_state.md R20, R21, R24, R26), the frame in whose terms statements say what stays unchanged, and the spec's tick as
one function (60_exceptions.md R127), which statements compare `step` with. -/

namespace Sys2Proof.Machine

/-! ### How a run ends (R139) -/

/-- Fatal end: a failure, never a successful end (R118, R139). -/
def State.fatalEnd (s : State) : Prop := ∃ r, s.status = .fatal r

/-- Halt loop, the successful end: Live and Running, and the instruction at the pc is a jump to itself (R139). -/
def State.haltLoop (s : State) : Prop :=
  s.running = true ∧ ∃ nnn w, s.fetch = some w ∧ decodeWord s.cfg w = some (.jp nnn) ∧ nnn.toNat = s.pc.toNat

/-- A safe state: no fatal condition has been raised (R31). -/
def State.safe (s : State) : Prop := s.status = .live

/-! ### The invariant -/

/-- What every step keeps: an admitted configuration, memory in canonical form, I of 12 bits (R20, R21), a pc below
0x10FF (R24), a stack within its depth that holds return addresses (R24, R26), a ROM that fits (R50), and inside a tick
a Live instance, at most `IPT` slots left and no result given yet (R118, R127). -/
def State.Inv (s : State) : Prop :=
  s.cfg.wf = true ∧ s.mem.wf s.cfg = true ∧ s.i.toNat < 4096 ∧ s.pc.toNat < 0x10FF ∧
  s.stack.length ≤ s.cfg.stackDepth ∧ (∀ a ∈ s.stack, a.toNat ≤ 0x1000) ∧ s.rom.length ≤ 3584 ∧
  (∀ k, s.phase = .slots k → s.status = .live ∧ k ≤ s.cfg.ipt ∧ s.out = none)

/-! ### Frames -/

/-- The parts of the state beside the general registers and memory that an instruction or a cycle can write (R36). -/
inductive Part where
  | pc | i | stack | dt | st | fb | waiting | status | log | phase | draws
  deriving DecidableEq, Repr

/-- `t` differs from `s` at most in the registers and parts listed and in the bytes at the addresses in `stored`. The
key table, `paused` and the host's side of the state never differ (R34, R36). -/
def FrameExcept (s t : State) (regs : List Reg) (parts : List Part) (stored : Nat → Prop) : Prop :=
  (∀ r, r ∉ regs → t.reg r = s.reg r) ∧
  (.pc ∉ parts → t.pc = s.pc) ∧ (.i ∉ parts → t.i = s.i) ∧ (.stack ∉ parts → t.stack = s.stack) ∧
  (.dt ∉ parts → t.dt = s.dt) ∧ (.st ∉ parts → t.st = s.st) ∧ (.fb ∉ parts → t.fb = s.fb) ∧
  (.waiting ∉ parts → t.waiting = s.waiting) ∧ (.status ∉ parts → t.status = s.status) ∧
  (.log ∉ parts → t.log = s.log) ∧ (.phase ∉ parts → t.phase = s.phase) ∧ (.draws ∉ parts → t.draws = s.draws) ∧
  (∀ a, ¬ stored a → t.byteAt a = s.byteAt a) ∧
  t.keys = s.keys ∧ t.paused = s.paused ∧ t.cfg = s.cfg ∧ t.rom = s.rom ∧ t.out = s.out ∧ t.calls = s.calls ∧
  t.frames = s.frames

/-- No address: the stored bytes of an instruction that stores nothing. -/
def nowhere : Nat → Prop := fun _ => False

/-- The `len` addresses from `a` on. -/
def block (a len : Nat) : Nat → Prop := fun b => a ≤ b ∧ b < a + len

/-- The registers V0 to Vx. -/
def regsTo (x : Reg) : List Reg := (List.range (x.toNat + 1)).map (BitVec.ofNat 4)

/-- The instruction raises a fatal condition, and nothing else changes: `status` records the reason, the tick is over
(R118, R119). -/
def RaisesFatal (i : Instr) (s : State) (r : FatalReason) : Prop :=
  ∃ t, exec i s = .next t ∧ t.status = .fatal r ∧ t.phase = .between ∧ FrameExcept s t [] [.status, .phase] nowhere

/-- The decoder reads the instruction from the word with this number. -/
def EncodedAs (c : Config) (n : Nat) (i : Instr) : Prop := decodeWord c (BitVec.ofNat 16 n) = some i

/-! ### Sprites (R72, R75) -/

/-- The sprite of `n` rows at I, drawn with its top left pixel at column `px` and row `py`, has a 1 bit on the cell
`(cx, cy)` after wrapping (R72, R74, R75). -/
def SpriteCovers (s : State) (px py n cx cy : Nat) : Prop :=
  ∃ r, r < n ∧ ∃ c, c < 8 ∧ (s.byteAt (s.i.toNat + r)).getLsbD (7 - c) = true ∧
    (px + c) % 64 = cx ∧ (py + r) % 32 = cy

/-- Drawing it clears some cell (R76). -/
def SpriteCollides (s : State) (px py n : Nat) : Prop :=
  ∃ cx cy, cx < 64 ∧ cy < 32 ∧ SpriteCovers s px py n cx cy ∧ cellAt s.fb cx cy = true

/-! ### Several steps -/

/-- So many steps of the machine, stopping at the first fault. -/
def runSteps : Nat → State → Host.Outcome State Fault Refusal
  | 0, s => .next s
  | n + 1, s =>
    match step s with
    | .next t => runSteps n t
    | .fault f => .fault f
    | .refused r => .refused r

/-! ### The tick of R127 as one function -/

/-- `repeat n times`: a cycle when Live and Running, else a skip; a fatal condition ends it (R127). -/
def runSlots : Nat → State → Host.Outcome State Fault Refusal
  | 0, s => .next s
  | n + 1, s =>
    if s.status = .live then
      match s.slot with
      | .next t => runSlots n t
      | .fault f => .fault f
      | .refused r => .refused r
    else .next s

/-- `tick(keysNow, pressed)` as R127 writes it, on an instance outside a tick. -/
def tickSpec (keysNow : KeyTable) (pressed : Option Reg) (s : State) : Host.Outcome State Fault Refusal :=
  if s.status ≠ .live then .next s
  else
    let s1 : State := { s with keys := keysNow, out := none }
    let s2 : State :=
      match s1.paused, s1.waiting, pressed with
      | false, some x, some k => { s1.setReg x (k.setWidth 8) with waiting := none }
      | _, _, _ => s1
    match runSlots s.cfg.ipt s2 with
    | .next t =>
      if t.status ≠ .live then .next t
      else
        let u : State :=
          if t.paused then t
          else { t with dt := BitVec.ofNat 8 (t.dt.toNat - 1), st := BitVec.ofNat 8 (t.st.toNat - 1) }
        .next { u with out := some { snapshot := u.fb, paused := u.paused, sound := decide (0 < u.st.toNat) } }
    | .fault f => .fault f
    | .refused r => .refused r

end Sys2Proof.Machine
end

