-- ==== Sys2Proof/Certificates/Slice0/Obligations.lean ====
section
/-! DEFINITION. The statements for the provers. Each docstring names the rule of spec/ it formalises. A statement with
hypotheses has its witness in Sys2Proof/Tests/Slice0.lean. -/

open Sys2Proof Sys2Proof.Machine

/-! ### Encoding (30_encoding.md) -/

/-- Decoding the word of a well-formed instruction gives the instruction back, every operand at every value (R67). -/
def Obligations.DecodeEncodeRoundTrip : Prop :=
  ∀ (c : Config) (i : Instr), WellFormed c i = true → decodeWord c (encode i) = some i

/-- A word that decodes is the word of the instruction it decodes to, and that instruction is well-formed: the decoder
drops no bit (R67). -/
def Obligations.EncodeDecodeRoundTrip : Prop :=
  ∀ (c : Config) (w : Word) (i : Instr), decodeWord c w = some i → encode i = w ∧ WellFormed c i = true

/-- The dispatch agrees with the opcode map: the row of the decoded instruction selects the word, and a row that
selects a word is the row of the instruction it decodes to, so no two rows select one word (R67). -/
def Obligations.DecodeFollowsOpcodeMap : Prop :=
  ∀ (c : Config) (w : Word),
    (∀ i, decodeWord c w = some i → (opcodeRow c i).selects w = true) ∧
    (∀ i, (opcodeRow c i).selects w = true → ∃ j, decodeWord c w = some j ∧ opcodeRow c j = opcodeRow c i)

/-- The invalid words are exactly those R68 lists, with R61 to R65 for the families and the strict decode (R68 is marked
derived; the whole-word match of family 0 is spec decision D10). -/
def Obligations.InvalidWordsAreThoseListed : Prop :=
  ∀ (c : Config) (w : Word),
    decodeWord c w = none ↔
      (w.toNat / 0x1000 = 0x0 ∧ w.toNat ≠ 0x00E0 ∧ w.toNat ≠ 0x00EE) ∨
      (w.toNat / 0x1000 = 0x8 ∧ w.toNat % 0x10 ∈ [0x8, 0x9, 0xA, 0xB, 0xC, 0xD, 0xF]) ∨
      (w.toNat / 0x1000 = 0xE ∧ w.toNat % 0x100 ∉ [0x9E, 0xA1]) ∨
      (w.toNat / 0x1000 = 0xF ∧
        w.toNat % 0x100 ∉ [0x07, 0x0A, 0x15, 0x18, 0x1E, 0x29, 0x33, 0x55, 0x65]) ∨
      (c.strictSkipRegDecode = true ∧ (w.toNat / 0x1000 = 0x5 ∨ w.toNat / 0x1000 = 0x9) ∧ w.toNat % 0x10 ≠ 0)

/-- Eight words of the test vectors, laid out as bytes, decode under the DEFAULT parameters to the instructions they
stand for, and two are invalid (95_test_vectors.md). That 5121 is SE V1, V2 is spec decision D9 (the default decode, log
21), and that 01E0 is invalid is spec decision D10. -/
def Obligations.WorkedWordsDecode : Prop :=
  decode Config.default [0x00, 0xE0] = .ok (.cls, []) ∧ decode Config.default [0x23, 0x00] = .ok (.call 0x300, []) ∧
  decode Config.default [0x51, 0x21] = .ok (.seReg 1 2 1, []) ∧ decode Config.default [0x8F, 0x35] = .ok (.subReg 15 3, []) ∧
  decode Config.default [0xD1, 0x25] = .ok (.drw 1 2 5, []) ∧ decode Config.default [0xE5, 0xA1] = .ok (.sknp 5, []) ∧
  decode Config.default [0xF2, 0x55] = .ok (.storeRegs 2, []) ∧ decode Config.default [0xF2, 0x0A] = .ok (.ldKey 2, []) ∧
  decode Config.default [0x80, 0x08] = .error (.invalidOpcode 0x8008) ∧
  decode Config.default [0x01, 0xE0] = .error (.invalidOpcode 0x01E0) ∧ decode Config.default [0x12] = .error .truncated

/-! ### One step (R14, R42, R59, R120, R127) -/

/-- A step runs the decoded instruction: in a cycle slot of a running instance, when the two bytes at the pc decode, the
step is the instruction's effect on the state whose pc has advanced by 2 and whose tick has one slot less (R14, R59). -/
def Obligations.StepRunsDecodedInstruction : Prop :=
  ∀ (s : State) (k : Nat) (i : Instr), s.phase = .slots (k + 1) → s.running = true → s.pc.toNat + 1 < 4096 →
    decode s.cfg [s.byteAt s.pc.toNat, s.byteAt (s.pc.toNat + 1)] = .ok (i, []) →
    step s = exec i { s with phase := .slots k, pc := s.pc + 2 }

/-- The fetch reads the big-endian word at the pc, and at `pc ≥ 0xFFF` it is fatal (R42). That the pc may be odd is
spec decision D8 (R25, R45); the step that decodes and executes the word is R59 and R120; that a failed fetch changes
nothing else is R119, which the spec marks as derived, and log 1. -/
def Obligations.FetchIsBigEndianOrFatal : Prop :=
  ∀ (s : State) (k : Nat), s.phase = .slots (k + 1) → s.running = true →
    (s.pc.toNat < 0xFFF → ∃ w : Word, w.toNat / 256 = (s.byteAt s.pc.toNat).toNat ∧
      w.toNat % 256 = (s.byteAt (s.pc.toNat + 1)).toNat ∧ s.fetch = some w ∧
      step s = (match decodeWord s.cfg w with
        | some i => exec i { s with phase := .slots k, pc := s.pc + 2 }
        | none => .next { s with phase := .slots k, pc := s.pc + 2, log := s.log ++ [w] })) ∧
    (0xFFF ≤ s.pc.toNat → ∃ t, step s = .next t ∧ t.status = .fatal (.fetchOutOfRange s.pc) ∧ t.phase = .between ∧
      FrameExcept s t [] [.status, .phase] nowhere)

/-- An invalid opcode is logged, the pc advances by 2, nothing else changes and the run goes on (R120). -/
def Obligations.InvalidOpcodeIsLoggedAndSkipped : Prop :=
  ∀ (s : State) (k : Nat) (w : Word), s.phase = .slots (k + 1) → s.running = true → s.pc.toNat + 1 < 4096 →
    decode s.cfg [s.byteAt s.pc.toNat, s.byteAt (s.pc.toNat + 1)] = .error (.invalidOpcode w) →
    ∃ t, step s = .next t ∧ t.log = s.log ++ [w] ∧ t.pc = s.pc + 2 ∧ t.status = .live ∧ t.phase = .slots k ∧
      FrameExcept s t [] [.log, .pc, .phase] nowhere

/-- A slot of a paused or waiting instance is used up and executes nothing (R127, R149). -/
def Obligations.SkippedSlotExecutesNothing : Prop :=
  ∀ (s : State) (k : Nat), s.phase = .slots (k + 1) → (s.paused = true ∨ s.waiting.isSome = true) →
    step s = .next { s with phase := .slots k }

/-! ### The tick and the host (60_exceptions.md, 70_reset_and_hazards.md) -/

/-- From the call of a tick on, at most `IPT + 2` steps give exactly what the pseudocode of `tick(keysNow, pressed)`
gives (R127). The place of the key refresh and of the press is spec decisions D12 and D17. Of what the tick hands to the
host, R127's pseudocode has the snapshot alone: `paused` is R131's and `ST > 0` spec decision D21 (R133), both kept in
the field `out` (log 10) and read after the decrement (log 26, DEDUCED). The steps are the model's (log 4). -/
def Obligations.TickFollowsPseudocode : Prop :=
  ∀ (s : State) (keysNow : KeyTable) (pressed : Option Reg) (rest : List HostCall),
    s.phase = .between → s.calls = .tick keysNow pressed :: rest →
    ∃ n, 0 < n ∧ n ≤ s.cfg.ipt + 2 ∧ runSteps n s = tickSpec keysNow pressed { s with calls := rest }

/-- At a tick's end both timers of a Live instance that is not paused decrease by exactly 1, floored at 0, waiting or
not; the host gets the framebuffer's copy, the pause flag and `ST > 0`; nothing else changes (R128,
R131, R133; the sound output is spec decision D21). That the result is kept in the field `out` is log 10, that it is
taken after the decrement, so that its sound output is that of the decremented ST, is log 26 (DEDUCED). -/
def Obligations.TickEndDecrementsTimers : Prop :=
  ∀ (s : State), s.phase = .slots 0 → s.status = .live →
    ∃ t, step s = .next t ∧ t.dt.toNat = (if s.paused then s.dt.toNat else s.dt.toNat - 1) ∧
      t.st.toNat = (if s.paused then s.st.toNat else s.st.toNat - 1) ∧
      t.out = some { snapshot := s.fb, paused := s.paused, sound := decide (0 < t.st.toNat) } ∧
      t = { s with dt := t.dt, st := t.st, phase := .between, out := t.out }

/-- No step changes a timer but a tick's end, an Fx15 or Fx18 executed, and the construction of a new instance (R28,
R116, which the spec marks as derived, R128, R141; the phases of a tick: log 4). -/
def Obligations.TimersChangeNowhereElse : Prop :=
  ∀ (s t : State), step s = .next t → (t.dt ≠ s.dt ∨ t.st ≠ s.st) →
    (s.phase = .slots 0 ∧ s.status = .live ∧ s.paused = false) ∨
    (s.phase = .between ∧ ∃ rest, s.calls = .reset :: rest) ∨
    (∃ k w x, s.phase = .slots (k + 1) ∧ s.running = true ∧ s.fetch = some w ∧
      (decodeWord s.cfg w = some (.ldDt x) ∨ decodeWord s.cfg w = some (.ldSt x)))

/-- The start of a tick: the key table is refreshed (R129, spec decision D17) and a pending Fx0A is resolved, if not
paused and a press is signalled, with the pressed key in its register; a signal without a wait, or while paused, is
ignored (R130, spec decisions D12 and D13). The last result is cleared (`out`, log 10), the slots are opened (log 4) and
the call leaves the queue (log 5); nothing else changes. -/
def Obligations.TickStartResolvesKeyWait : Prop :=
  ∀ (s : State) (keysNow : KeyTable) (pressed : Option Reg) (rest : List HostCall),
    s.phase = .between → s.status = .live → s.calls = .tick keysNow pressed :: rest →
    ∃ t, step s = .next t ∧
      (∀ x k, s.paused = false → s.waiting = some x → pressed = some k →
        (t.reg x).toNat = k.toNat ∧ (∀ r, r ≠ x → t.reg r = s.reg r) ∧ t.waiting = none) ∧
      (s.paused = true ∨ s.waiting = none ∨ pressed = none → (∀ r, t.reg r = s.reg r) ∧ t.waiting = s.waiting) ∧
      t = { s with keys := keysNow, phase := .slots s.cfg.ipt, out := none, calls := rest, v := t.v, waiting := t.waiting }

/-- The key table changes only at the start of a tick, to what the host gives, or at the construction of a new instance
(R34, R129; spec decision D17; the tick with free inputs is the model's, log 5). -/
def Obligations.KeyTableChangesOnlyAtTickStart : Prop :=
  ∀ (s t : State), step s = .next t → t.keys ≠ s.keys →
    s.phase = .between ∧
      ((∃ pressed rest, s.calls = .tick t.keys pressed :: rest) ∨ (s.calls = [] ∧ t.keys = Config.frameKeys s.frames) ∨
        ∃ rest, s.calls = .reset :: rest)

/-- With no call pending the host ticks and its inputs are the free values of Config; the model's choice (log 5). The
statement holds whatever those values are. -/
def Obligations.UnqueuedTickTakesFreeInputs : Prop :=
  ∀ (s : State), s.phase = .between → s.status = .live → s.calls = [] →
    ∃ t, step s = .next t ∧ t.keys = Config.frameKeys s.frames ∧ t.frames = s.frames + 1 ∧
      t.phase = .slots s.cfg.ipt ∧ t.pc = s.pc ∧ t.calls = [] ∧
      (∀ x, s.paused = false → s.waiting = some x →
        match Config.framePress s.frames with
        | some k => (t.reg x).toNat = k.toNat ∧ t.waiting = none
        | none => t.reg x = s.reg x ∧ t.waiting = some x)

/-- A pause toggle happens between ticks and flips `paused` alone, waiting or not; while paused no cycle runs and the
timers hold (R132, spec decision D13). -/
def Obligations.PauseToggleFlipsPausedOnly : Prop :=
  ∀ (s : State),
    (∀ rest, s.phase = .between → s.calls = .togglePause :: rest →
      step s = .next { s with calls := rest, paused := !s.paused }) ∧
    (∀ k, s.phase = .slots (k + 1) → s.paused = true → step s = .next { s with phase := .slots k }) ∧
    (s.phase = .slots 0 → s.paused = true → ∃ t, step s = .next t ∧ t.dt = s.dt ∧ t.st = s.st)

/-- A reset is served at any tick boundary, waiting, paused or after a fatal condition, by constructing a fresh instance
from the same ROM and parameters; of the old state only what is the host's remains; when nothing can be constructed no
instance runs (R134, R141; the same ROM is spec decision D23; what remains and the fault: logs 11 and 13). -/
def Obligations.ResetConstructsFreshInstance : Prop :=
  ∀ (s : State) (rest : List HostCall), s.phase = .between → s.calls = .reset :: rest →
    (s.cfg.wf = true → s.rom.length ≤ 3584 → ∃ t, State.construct s.cfg s.rom = some t ∧
      step s = .next { t with calls := rest, draws := s.draws, frames := s.frames }) ∧
    (s.cfg.wf = false ∨ 3584 < s.rom.length → step s = .fault .constructionFailed)

/-- The host's quit: no further tick (R134, spec decision D23; the fault is the model's, log 12). -/
def Obligations.QuitEndsTheTicks : Prop :=
  ∀ (s : State) (rest : List HostCall), s.phase = .between → s.calls = .quit :: rest →
    ∃ t, step s = .next t ∧ step t = .fault .hostQuit

/-- A fatal status is final: a step of a fatal instance leaves every part of it but the host's pause bit, calls and
counters, unless it serves a reset (R31, R118, spec decision D15; what the host may still do: log 23). -/
def Obligations.FatalStatusIsFinal : Prop :=
  ∀ (s t : State) (r : FatalReason), s.status = .fatal r → step s = .next t →
    (∃ rest, s.phase = .between ∧ s.calls = .reset :: rest) ∨
    t = { s with phase := t.phase, calls := t.calls, paused := t.paused, frames := t.frames }

/-! ### Construction, reset and the invariant -/

/-- A construction with the default parameters leaves what R38 lists: the font, the ROM, and zero everywhere else;
stack and log empty, keys up, Running and Live, pc at 0x200 (spec decisions D3, D4, D6 and D7). -/
def Obligations.DefaultConstructionState : Prop :=
  ∀ (rom : List Byte), rom.length ≤ 3584 →
    ∃ t, State.construct Config.default rom = some t ∧
      (∀ a, a < 80 → t.byteAt a = font.getD a 0) ∧
      (∀ a, 0x200 ≤ a → a < 0x200 + rom.length → t.byteAt a = rom.getD (a - 0x200) 0) ∧
      (∀ a, 80 ≤ a → a < 4096 → (a < 0x200 ∨ 0x200 + rom.length ≤ a) → t.byteAt a = 0) ∧
      (∀ x, t.reg x = 0) ∧ t.i = 0 ∧ t.pc = 0x200 ∧ t.stack = [] ∧ t.dt = 0 ∧ t.st = 0 ∧
      (∀ x y, x < 64 → y < 32 → cellAt t.fb x y = false) ∧ (∀ k, t.keyDown k = false) ∧
      t.paused = false ∧ t.waiting = none ∧ t.status = .live ∧ t.log = []

/-- Construction over every admitted configuration: memory holds the font at FONT_BASE, the ROM at 0x200 and the
RESET_VALUES elsewhere, the registers and the log their RESET_VALUES; the memory is in canonical form; a ROM that is too long or a
rejected configuration gives no instance (R21, R38, R49, R50, R141; spec decisions D3, D4, D6, D7; the configurations
admitted: log 14; the invalid-opcode log: log 30). -/
def Obligations.ConstructionOverAllParameters : Prop :=
  ∀ (c : Config) (rom : List Byte),
    (c.wf = true → rom.length ≤ 3584 → ∃ t, State.construct c rom = some t ∧ t.cfg = c ∧ t.rom = rom ∧
      (∀ a, a < 80 → t.byteAt (c.fontBase + a) = font.getD a 0) ∧
      (∀ a, 0x200 ≤ a → a < 0x200 + rom.length → t.byteAt a = rom.getD (a - 0x200) 0) ∧
      (∀ a, a < 4096 → (a < c.fontBase ∨ c.fontBase + 80 ≤ a) → (a < 0x200 ∨ 0x200 + rom.length ≤ a) →
        t.byteAt a = c.resetValues.mem.getD a 0) ∧
      t.mem.wf c = true ∧ t.v = c.resetValues.v ∧ t.i = c.resetValues.i ∧ t.pc = 0x200 ∧
      t.stack = c.resetValues.stack ∧ t.dt = c.resetValues.dt ∧ t.st = c.resetValues.st ∧ t.fb = c.resetValues.fb ∧
      t.keys = c.resetValues.keys ∧ t.paused = false ∧ t.waiting = none ∧ t.status = .live ∧
      t.log = c.resetValues.log) ∧
    (c.wf = false ∨ 3584 < rom.length → State.construct c rom = none)

/-- Every step keeps the invariant, from every state that meets it (R20, R21, R26; R24, which the spec marks
as derived; memory's form: log 9; the configurations admitted: log 14; the place in the tick: logs 4 and 10). -/
def Obligations.StepKeepsInvariant : Prop := ∀ (s t : State), s.Inv → step s = .next t → t.Inv

/-- The reset state is the construction with the default parameters and an empty ROM, and it meets the invariant (R38,
R141; log 6). -/
def Obligations.ResetMeetsInvariant : Prop :=
  State.construct Config.default [] = some State.reset ∧ State.reset.Inv

/-- Memories in canonical form that read alike at every address are the same data (R35, R46; the form is the model's, log 9). -/
def Obligations.MemoryFormIsUnique : Prop :=
  ∀ (c : Config) (m n : Memory), m.wf c = true → n.wf c = true → (∀ a, a < 4096 → m.read c a = n.read c a) → m = n

/-! ### Display (40_display.md) -/

/-- CLS (R71). -/
def Obligations.ClearScreenClearsEveryCell : Prop :=
  ∀ (s : State), EncodedAs s.cfg 0x00E0 .cls ∧
    ∃ t, exec .cls s = .next t ∧ (∀ x y, x < 64 → y < 32 → cellAt t.fb x y = false) ∧
      FrameExcept s t [] [.fb] nowhere

/-- DRW Vx, Vy, n: when the rows lie in memory each cell is toggled exactly where the wrapped sprite has a 1 bit, VF
is 1 exactly when a set cell was cleared, and nothing else changes; else the fatal condition, with the framebuffer
unchanged. The coordinates are the values before VF is written; `n = 0` draws nothing and sets VF to 0 (R72, R76; bit 7 is
the leftmost pixel by spec decision D5, the range is checked first by spec decision D16). -/
def Obligations.DrawTogglesCoveredCells : Prop :=
  ∀ (s : State) (x y : Reg) (n : Nibble),
    EncodedAs s.cfg (0xD000 + x.toNat * 0x100 + y.toNat * 0x10 + n.toNat) (.drw x y n) ∧
    ((n.toNat = 0 ∨ s.i.toNat + n.toNat ≤ 4096) →
      ∃ t, exec (.drw x y n) s = .next t ∧
        (∀ cx cy, cx < 64 → cy < 32 →
          (cellAt t.fb cx cy = true ↔
            ¬ (cellAt s.fb cx cy = true ↔ SpriteCovers s (s.reg x).toNat (s.reg y).toNat n.toNat cx cy))) ∧
        (SpriteCollides s (s.reg x).toNat (s.reg y).toNat n.toNat → t.reg vf = 1) ∧
        (¬ SpriteCollides s (s.reg x).toNat (s.reg y).toNat n.toNat → t.reg vf = 0) ∧
        FrameExcept s t [vf] [.fb] nowhere) ∧
    (0 < n.toNat → 4096 < s.i.toNat + n.toNat → RaisesFatal (.drw x y n) s (.memReadOutOfRange 4096))

/-- Drawing the same sprite twice at the same place restores the framebuffer, and the second draw reports a collision
exactly when the first set some cell that was clear (R72's corner case as the rule's pseudocode has it; log 27). -/
def Obligations.DrawTwiceRestoresFramebuffer : Prop :=
  ∀ (s t u : State) (x y : Reg) (n : Nibble), x ≠ vf → y ≠ vf → (n.toNat = 0 ∨ s.i.toNat + n.toNat ≤ 4096) →
    exec (.drw x y n) s = .next t → exec (.drw x y n) t = .next u →
    u.fb = s.fb ∧
    (u.reg vf = 1 ↔ ∃ cx cy, cx < 64 ∧ cy < 32 ∧
      SpriteCovers s (s.reg x).toNat (s.reg y).toNat n.toNat cx cy ∧ cellAt s.fb cx cy = false)

/-! ### Control flow (41_control_flow.md) -/

/-- RET, and that it undoes the matching CALL's push (R77). That the underflow changes nothing else is R118 (spec
decision D15) and R119, which the spec marks as derived, with log 1. -/
def Obligations.ReturnPopsTheStack : Prop :=
  ∀ (s : State), EncodedAs s.cfg 0x00EE .ret ∧
    (∀ l a, s.stack = l ++ [a] → ∃ t, exec .ret s = .next t ∧ t.pc = a ∧ t.stack = l ∧
      FrameExcept s t [] [.pc, .stack] nowhere) ∧
    (s.stack = [] → RaisesFatal .ret s .stackUnderflow) ∧
    (∀ nnn, s.stack.length < s.cfg.stackDepth →
      ∃ t u, exec (.call nnn) s = .next t ∧ exec .ret t = .next u ∧ u.pc = s.pc)

/-- JP nnn, and JP V0, nnn, whose sum is not reduced; a target at or above 0xFFF is taken and the next fetch fails
(R78, R84; the spec marks the fetch of an unreduced sum as derived from R52). -/
def Obligations.JumpsSetPc : Prop :=
  ∀ (s : State) (nnn : Imm12),
    EncodedAs s.cfg (0x1000 + nnn.toNat) (.jp nnn) ∧ EncodedAs s.cfg (0xB000 + nnn.toNat) (.jpV0 nnn) ∧
    (∃ t, exec (.jp nnn) s = .next t ∧ t.pc.toNat = nnn.toNat ∧ (0xFFF ≤ nnn.toNat → t.fetch = none) ∧
      FrameExcept s t [] [.pc] nowhere) ∧
    (∃ t, exec (.jpV0 nnn) s = .next t ∧ t.pc.toNat = nnn.toNat + (s.reg 0).toNat ∧
      (0xFFF ≤ nnn.toNat + (s.reg 0).toNat → t.fetch = none) ∧ FrameExcept s t [] [.pc] nowhere)

/-- CALL nnn; the pc pushed is the advanced one (R79). That the overflow changes nothing else is R119, which the spec
marks as derived, with log 1. -/
def Obligations.CallPushesPc : Prop :=
  ∀ (s : State) (nnn : Imm12), EncodedAs s.cfg (0x2000 + nnn.toNat) (.call nnn) ∧
    (s.stack.length < s.cfg.stackDepth → ∃ t, exec (.call nnn) s = .next t ∧ t.pc.toNat = nnn.toNat ∧
      t.stack = s.stack ++ [s.pc] ∧ FrameExcept s t [] [.pc, .stack] nowhere) ∧
    (s.stack.length = s.cfg.stackDepth → RaisesFatal (.call nnn) s .stackOverflow)

/-- 00EE after 2nnn restores the pc to the instruction after the call, and the stack (R77, R79). -/
def Obligations.ReturnUndoesCall : Prop :=
  ∀ (s : State) (nnn : Imm12), s.stack.length < s.cfg.stackDepth →
    ∃ t u, exec (.call nnn) s = .next t ∧ exec .ret t = .next u ∧ u = s

/-- SE Vx, kk and SNE Vx, kk (R80, R81). -/
def Obligations.ImmediateSkips : Prop :=
  ∀ (s : State) (x : Reg) (kk : Byte),
    EncodedAs s.cfg (0x3000 + x.toNat * 0x100 + kk.toNat) (.seImm x kk) ∧
    EncodedAs s.cfg (0x4000 + x.toNat * 0x100 + kk.toNat) (.sneImm x kk) ∧
    (∃ t, exec (.seImm x kk) s = .next t ∧ t.pc = (if s.reg x = kk then s.pc + 2 else s.pc) ∧
      FrameExcept s t [] [.pc] nowhere) ∧
    (∃ t, exec (.sneImm x kk) s = .next t ∧ t.pc = (if s.reg x ≠ kk then s.pc + 2 else s.pc) ∧
      FrameExcept s t [] [.pc] nowhere)

/-- SE Vx, Vy and SNE Vx, Vy; the low nibble is not examined by default and is 0 under the strict decode (R82, R83). -/
def Obligations.RegisterSkips : Prop :=
  ∀ (s : State) (x y : Reg) (n : Nibble),
    (s.cfg.strictSkipRegDecode = false ∨ n = 0 →
      EncodedAs s.cfg (0x5000 + x.toNat * 0x100 + y.toNat * 0x10 + n.toNat) (.seReg x y n) ∧
      EncodedAs s.cfg (0x9000 + x.toNat * 0x100 + y.toNat * 0x10 + n.toNat) (.sneReg x y n)) ∧
    (s.cfg.strictSkipRegDecode = true → n ≠ 0 →
      decodeWord s.cfg (BitVec.ofNat 16 (0x5000 + x.toNat * 0x100 + y.toNat * 0x10 + n.toNat)) = none ∧
      decodeWord s.cfg (BitVec.ofNat 16 (0x9000 + x.toNat * 0x100 + y.toNat * 0x10 + n.toNat)) = none) ∧
    (∃ t, exec (.seReg x y n) s = .next t ∧ t.pc = (if s.reg x = s.reg y then s.pc + 2 else s.pc) ∧
      FrameExcept s t [] [.pc] nowhere) ∧
    (∃ t, exec (.sneReg x y n) s = .next t ∧ t.pc = (if s.reg x ≠ s.reg y then s.pc + 2 else s.pc) ∧
      FrameExcept s t [] [.pc] nowhere)

/-! ### Registers and arithmetic (42_alu.md) -/

/-- LD Vx, kk and LD Vx, Vy (R87, R89). -/
def Obligations.RegisterLoads : Prop :=
  ∀ (s : State) (x y : Reg) (kk : Byte),
    EncodedAs s.cfg (0x6000 + x.toNat * 0x100 + kk.toNat) (.ldImm x kk) ∧
    EncodedAs s.cfg (0x8000 + x.toNat * 0x100 + y.toNat * 0x10) (.ldReg x y) ∧
    (∃ t, exec (.ldImm x kk) s = .next t ∧ t.reg x = kk ∧ FrameExcept s t [x] [] nowhere) ∧
    (∃ t, exec (.ldReg x y) s = .next t ∧ t.reg x = s.reg y ∧ FrameExcept s t [x] [] nowhere)

/-- ADD Vx, kk: modulo 256, VF not a flag (R88). -/
def Obligations.AddImmediate : Prop :=
  ∀ (s : State) (x : Reg) (kk : Byte), EncodedAs s.cfg (0x7000 + x.toNat * 0x100 + kk.toNat) (.addImm x kk) ∧
    ∃ t, exec (.addImm x kk) s = .next t ∧ (t.reg x).toNat = ((s.reg x).toNat + kk.toNat) % 256 ∧
      FrameExcept s t [x] [] nowhere

/-- OR, AND and XOR Vx, Vy, bit by bit, VF not a flag (R90, R91, R92; that VF is unchanged is derived from R37). -/
def Obligations.LogicalOperations : Prop :=
  ∀ (s : State) (x y : Reg),
    EncodedAs s.cfg (0x8001 + x.toNat * 0x100 + y.toNat * 0x10) (.orReg x y) ∧
    EncodedAs s.cfg (0x8002 + x.toNat * 0x100 + y.toNat * 0x10) (.andReg x y) ∧
    EncodedAs s.cfg (0x8003 + x.toNat * 0x100 + y.toNat * 0x10) (.xorReg x y) ∧
    (∃ t, exec (.orReg x y) s = .next t ∧
      (∀ b, (t.reg x).getLsbD b = ((s.reg x).getLsbD b || (s.reg y).getLsbD b)) ∧ FrameExcept s t [x] [] nowhere) ∧
    (∃ t, exec (.andReg x y) s = .next t ∧
      (∀ b, (t.reg x).getLsbD b = ((s.reg x).getLsbD b && (s.reg y).getLsbD b)) ∧ FrameExcept s t [x] [] nowhere) ∧
    (∃ t, exec (.xorReg x y) s = .next t ∧
      (∀ b, (t.reg x).getLsbD b = ((s.reg x).getLsbD b ^^ (s.reg y).getLsbD b)) ∧ FrameExcept s t [x] [] nowhere)

/-- ADD Vx, Vy: the result modulo 256 in Vx, the carry in VF, and the result, not the carry, when `x` is 15 (R93). -/
def Obligations.AddSetsCarry : Prop :=
  ∀ (s : State) (x y : Reg), EncodedAs s.cfg (0x8004 + x.toNat * 0x100 + y.toNat * 0x10) (.addReg x y) ∧
    ∃ t, exec (.addReg x y) s = .next t ∧ (t.reg x).toNat = ((s.reg x).toNat + (s.reg y).toNat) % 256 ∧
      (x ≠ vf → t.reg vf = if 255 < (s.reg x).toNat + (s.reg y).toNat then 1 else 0) ∧
      FrameExcept s t [x, vf] [] nowhere

/-- SUB Vx, Vy and SUBN Vx, Vy under both operand orders, every operand form (R94, R96). -/
def Obligations.SubtractionsSetNoBorrow : Prop :=
  ∀ (s : State) (x y : Reg),
    EncodedAs s.cfg (0x8005 + x.toNat * 0x100 + y.toNat * 0x10) (.subReg x y) ∧
    EncodedAs s.cfg (0x8007 + x.toNat * 0x100 + y.toNat * 0x10) (.subnReg x y) ∧
    (∃ t, exec (.subReg x y) s = .next t ∧ FrameExcept s t [x, vf] [] nowhere ∧
      ∀ f, f = (if (s.reg y).toNat ≤ (s.reg x).toNat then 1 else 0) →
        (x ≠ vf → (t.reg vf).toNat = f) ∧
        (s.cfg.flagOperandOrder = .latched →
          (t.reg x).toNat = ((s.reg x).toNat + 256 - (s.reg y).toNat) % 256) ∧
        (s.cfg.flagOperandOrder = .sequential →
          (t.reg x).toNat =
            ((if x = vf then f else (s.reg x).toNat) + 256 - (if y = vf then f else (s.reg y).toNat)) % 256)) ∧
    (∃ t, exec (.subnReg x y) s = .next t ∧ FrameExcept s t [x, vf] [] nowhere ∧
      ∀ f, f = (if (s.reg x).toNat ≤ (s.reg y).toNat then 1 else 0) →
        (x ≠ vf → (t.reg vf).toNat = f) ∧
        (s.cfg.flagOperandOrder = .latched →
          (t.reg x).toNat = ((s.reg y).toNat + 256 - (s.reg x).toNat) % 256) ∧
        (s.cfg.flagOperandOrder = .sequential →
          (t.reg x).toNat =
            ((if y = vf then f else (s.reg y).toNat) + 256 - (if x = vf then f else (s.reg x).toNat)) % 256))

/-- SHR Vx: the shifted Vx, whatever `y` is, and the bit shifted out in VF; both operand orders (R95). -/
def Obligations.ShiftRightDropsBitZero : Prop :=
  ∀ (s : State) (x y : Reg), EncodedAs s.cfg (0x8006 + x.toNat * 0x100 + y.toNat * 0x10) (.shr x y) ∧
    ∃ t, exec (.shr x y) s = .next t ∧ FrameExcept s t [x, vf] [] nowhere ∧
      (x ≠ vf → (t.reg vf).toNat = (s.reg x).toNat % 2 ∧ (t.reg x).toNat = (s.reg x).toNat / 2) ∧
      (x = vf → s.cfg.flagOperandOrder = .latched → (t.reg vf).toNat = (s.reg vf).toNat / 2) ∧
      (x = vf → s.cfg.flagOperandOrder = .sequential → (t.reg vf).toNat = 0)

/-- SHL Vx: the shifted Vx modulo 256, whatever `y` is, and the bit shifted out in VF; both operand orders (R97). -/
def Obligations.ShiftLeftDropsBitSeven : Prop :=
  ∀ (s : State) (x y : Reg), EncodedAs s.cfg (0x800E + x.toNat * 0x100 + y.toNat * 0x10) (.shl x y) ∧
    ∃ t, exec (.shl x y) s = .next t ∧ FrameExcept s t [x, vf] [] nowhere ∧
      (x ≠ vf → (t.reg vf).toNat = (s.reg x).toNat / 128 ∧ (t.reg x).toNat = (s.reg x).toNat * 2 % 256) ∧
      (x = vf → s.cfg.flagOperandOrder = .latched → (t.reg vf).toNat = (s.reg vf).toNat * 2 % 256) ∧
      (x = vf → s.cfg.flagOperandOrder = .sequential → (t.reg vf).toNat = (s.reg vf).toNat / 128 * 2)

/-- The two operand orders give the same next state, but for the parameter itself, for every instruction other than
8xy5 and 8xy7 with exactly one of `x`, `y` equal to 15 and 8xy6 and 8xyE with `x` equal to 15 (R98, spec decision D1). -/
def Obligations.OperandOrdersAgreeElsewhere : Prop :=
  ∀ (s t u : State) (i : Instr) (o : FlagOperandOrder),
    (∀ x y, i = .subReg x y ∨ i = .subnReg x y → (x = vf ↔ y = vf)) →
    (∀ x y, i = .shr x y ∨ i = .shl x y → x ≠ vf) →
    exec i s = .next t → exec i { s with cfg := { s.cfg with flagOperandOrder := o } } = .next u →
    u = { t with cfg := { t.cfg with flagOperandOrder := o } }

/-- RND Vx, kk: a byte drawn afresh, of any value, masked; bits outside the mask are 0. The byte drawn is a free value
and the statement holds whatever it is (R101, spec decision D14; log 3). -/
def Obligations.RandomByteIsMasked : Prop :=
  ∀ (s : State) (x : Reg) (kk : Byte), EncodedAs s.cfg (0xC000 + x.toNat * 0x100 + kk.toNat) (.rnd x kk) ∧
    ∃ t, exec (.rnd x kk) s = .next t ∧ t.reg x = Config.randomByte s.draws &&& kk ∧
      (∀ b, kk.getLsbD b = false → (t.reg x).getLsbD b = false) ∧ t.draws = s.draws + 1 ∧
      FrameExcept s t [x] [.draws] nowhere

/-! ### Index and memory (43_index_memory.md) -/

/-- LD I, nnn and ADD I, Vx; the sum is taken modulo 4096 without a flag (R102, R103; no flag is derived from R37). -/
def Obligations.IndexLoadAndAdd : Prop :=
  ∀ (s : State) (nnn : Imm12) (x : Reg),
    EncodedAs s.cfg (0xA000 + nnn.toNat) (.ldIndex nnn) ∧ EncodedAs s.cfg (0xF01E + x.toNat * 0x100) (.addIndex x) ∧
    (∃ t, exec (.ldIndex nnn) s = .next t ∧ t.i.toNat = nnn.toNat ∧ FrameExcept s t [] [.i] nowhere) ∧
    (∃ t, exec (.addIndex x) s = .next t ∧ t.i.toNat = (s.i.toNat + (s.reg x).toNat) % 4096 ∧
      FrameExcept s t [] [.i] nowhere)

/-- LD F, Vx: the full byte times 5 on FONT_BASE, with no reduction under an admitted configuration (R104). -/
def Obligations.FontAddress : Prop :=
  ∀ (s : State) (x : Reg), s.cfg.wf = true → EncodedAs s.cfg (0xF029 + x.toNat * 0x100) (.ldFont x) ∧
    ∃ t, exec (.ldFont x) s = .next t ∧ t.i.toNat = s.cfg.fontBase + (s.reg x).toNat * 5 ∧
      FrameExcept s t [] [.i] nowhere

/-- LD B, Vx: hundreds, tens and ones at I, I+1, I+2, all other bytes and I unchanged; fatal before any store when the
block does not fit (R105; the check comes first by spec decision D16, R108; that nothing else changes then is R119, marked
as derived, with log 1). -/
def Obligations.DecimalDigitsAreStored : Prop :=
  ∀ (s : State) (x : Reg), EncodedAs s.cfg (0xF033 + x.toNat * 0x100) (.ldBcd x) ∧
    (s.i.toNat + 2 < 4096 → ∃ t, exec (.ldBcd x) s = .next t ∧ FrameExcept s t [] [] (block s.i.toNat 3) ∧
      (s.mem.wf s.cfg = true →
        (t.byteAt s.i.toNat).toNat = (s.reg x).toNat / 100 ∧
        (t.byteAt (s.i.toNat + 1)).toNat = (s.reg x).toNat / 10 % 10 ∧
        (t.byteAt (s.i.toNat + 2)).toNat = (s.reg x).toNat % 10)) ∧
    (4096 ≤ s.i.toNat + 2 → RaisesFatal (.ldBcd x) s (.memWriteOutOfRange 4096))

/-- LD [I], Vx: V0 to Vx at I to I + x, all other bytes and I unchanged; fatal before any store when the block does not
fit (R106; that I is unchanged the spec derives from the table's row; the check comes first by spec decision D16, R108;
that nothing else changes then is R119, marked as derived, with log 1). -/
def Obligations.RegistersAreStored : Prop :=
  ∀ (s : State) (x : Reg), EncodedAs s.cfg (0xF055 + x.toNat * 0x100) (.storeRegs x) ∧
    (s.i.toNat + x.toNat < 4096 → ∃ t, exec (.storeRegs x) s = .next t ∧
      FrameExcept s t [] [] (block s.i.toNat (x.toNat + 1)) ∧
      (s.mem.wf s.cfg = true → ∀ k : Reg, k.toNat ≤ x.toNat → t.byteAt (s.i.toNat + k.toNat) = s.reg k)) ∧
    (4096 ≤ s.i.toNat + x.toNat → RaisesFatal (.storeRegs x) s (.memWriteOutOfRange 4096))

/-- LD Vx, [I]: the bytes at I to I + x in V0 to Vx, the registers above, memory and I unchanged; fatal before any load
when the block does not fit (R107; that I is unchanged is R106's, marked as derived; the check comes first by spec decision
D16, R108; that nothing else changes then is R119, marked as derived, with log 1). -/
def Obligations.RegistersAreLoaded : Prop :=
  ∀ (s : State) (x : Reg), EncodedAs s.cfg (0xF065 + x.toNat * 0x100) (.loadRegs x) ∧
    (s.i.toNat + x.toNat < 4096 → ∃ t, exec (.loadRegs x) s = .next t ∧
      (∀ k : Reg, k.toNat ≤ x.toNat → t.reg k = s.byteAt (s.i.toNat + k.toNat)) ∧
      FrameExcept s t (regsTo x) [] nowhere) ∧
    (4096 ≤ s.i.toNat + x.toNat → RaisesFatal (.loadRegs x) s (.memReadOutOfRange 4096))

/-- A stored byte is what the next fetch of its address reads: after Fx55 the word at `I + k` is made of the registers
`k` and `k + 1` (R55, R146, which the spec marks as derived). -/
def Obligations.StoredBytesAreFetched : Prop :=
  ∀ (s t : State) (x k : Reg), s.mem.wf s.cfg = true → s.i.toNat + x.toNat < 4096 → k.toNat + 1 ≤ x.toNat →
    exec (.storeRegs x) s = .next t → t.pc.toNat = s.i.toNat + k.toNat →
    ∃ w : Word, t.fetch = some w ∧ w.toNat = (s.reg k).toNat * 256 + (s.reg (k + 1)).toNat

/-! ### Keys and timers (44_timers_keys.md) -/

/-- SKP Vx and SKNP Vx under both key index policies (R109, R110; the policy is spec decision D11, R113). -/
def Obligations.KeySkips : Prop :=
  ∀ (s : State) (x : Reg),
    EncodedAs s.cfg (0xE09E + x.toNat * 0x100) (.skp x) ∧ EncodedAs s.cfg (0xE0A1 + x.toNat * 0x100) (.sknp x) ∧
    ((s.reg x).toNat ≤ 15 ∨ s.cfg.keyIndexPolicy = .lowNibble →
      (∃ t, exec (.skp x) s = .next t ∧
        t.pc = (if s.keyDown (BitVec.ofNat 4 (s.reg x).toNat) then s.pc + 2 else s.pc) ∧
        FrameExcept s t [] [.pc] nowhere) ∧
      (∃ t, exec (.sknp x) s = .next t ∧
        t.pc = (if s.keyDown (BitVec.ofNat 4 (s.reg x).toNat) then s.pc else s.pc + 2) ∧
        FrameExcept s t [] [.pc] nowhere)) ∧
    (15 < (s.reg x).toNat → s.cfg.keyIndexPolicy = .fatal →
      RaisesFatal (.skp x) s (.keyIndexOutOfRange (s.reg x)) ∧
      RaisesFatal (.sknp x) s (.keyIndexOutOfRange (s.reg x)))

/-- LD Vx, K: the run mode becomes WaitingForKey unless paused, `Vx` is not written, the pc is not moved again, and no
cycle runs while waiting (R112, spec decision D12; the resolution is TickStartResolvesKeyWait). -/
def Obligations.KeyWaitIsEntered : Prop :=
  ∀ (s : State) (x : Reg), EncodedAs s.cfg (0xF00A + x.toNat * 0x100) (.ldKey x) ∧
    ∃ t, exec (.ldKey x) s = .next t ∧ t.waiting = some x ∧ t.running = false ∧
      (s.paused = false → t.runMode = .waitingForKey) ∧ FrameExcept s t [] [.waiting] nowhere

/-- LD Vx, DT, LD DT, Vx and LD ST, Vx (R111, R114, R115). -/
def Obligations.TimerTransfers : Prop :=
  ∀ (s : State) (x : Reg),
    EncodedAs s.cfg (0xF007 + x.toNat * 0x100) (.ldFromDt x) ∧
    EncodedAs s.cfg (0xF015 + x.toNat * 0x100) (.ldDt x) ∧ EncodedAs s.cfg (0xF018 + x.toNat * 0x100) (.ldSt x) ∧
    (∃ t, exec (.ldFromDt x) s = .next t ∧ t.reg x = s.dt ∧ FrameExcept s t [x] [] nowhere) ∧
    (∃ t, exec (.ldDt x) s = .next t ∧ t.dt = s.reg x ∧ FrameExcept s t [] [.dt] nowhere) ∧
    (∃ t, exec (.ldSt x) s = .next t ∧ t.st = s.reg x ∧ FrameExcept s t [] [.st] nowhere)

/-! ### Rules about all instructions -/

/-- Every instruction answers a next state in every state: none is refused and none stops the machine (R124, spec
decision D19). -/
def Obligations.EveryInstructionAnswers : Prop := ∀ (i : Instr) (s : State), ∃ t, exec i s = .next t

/-- The fatal conditions are exactly those of the table, each with its reason, for a stack within its depth (R26); a
cycle is fatal exactly when its fetch is, or the instruction it executes, so an invalid word never is (R117, with the key
index policy of spec decision D11). -/
def Obligations.FatalConditionsAreThoseListed : Prop :=
  (∀ (i : Instr) (s t : State) (r : FatalReason), s.status = .live → s.stack.length ≤ s.cfg.stackDepth →
    exec i s = .next t →
    (t.status = .fatal r ↔
      match i with
      | .drw _ _ n => 0 < n.toNat ∧ 4096 ≤ s.i.toNat + n.toNat - 1 ∧ r = .memReadOutOfRange 4096
      | .loadRegs x => 4096 ≤ s.i.toNat + x.toNat ∧ r = .memReadOutOfRange 4096
      | .ldBcd _ => 4096 ≤ s.i.toNat + 2 ∧ r = .memWriteOutOfRange 4096
      | .storeRegs x => 4096 ≤ s.i.toNat + x.toNat ∧ r = .memWriteOutOfRange 4096
      | .ret => s.stack = [] ∧ r = .stackUnderflow
      | .call _ => s.stack.length = s.cfg.stackDepth ∧ r = .stackOverflow
      | .skp x => s.cfg.keyIndexPolicy = .fatal ∧ 15 < (s.reg x).toNat ∧ r = .keyIndexOutOfRange (s.reg x)
      | .sknp x => s.cfg.keyIndexPolicy = .fatal ∧ 15 < (s.reg x).toNat ∧ r = .keyIndexOutOfRange (s.reg x)
      | _ => False)) ∧
  (∀ (s t : State) (k : Nat) (r : FatalReason), s.phase = .slots (k + 1) → s.running = true → step s = .next t →
    (t.status = .fatal r ↔
      (0xFFF ≤ s.pc.toNat ∧ r = .fetchOutOfRange s.pc) ∨
      ∃ w i u, s.fetch = some w ∧ decodeWord s.cfg w = some i ∧
        exec i { s with phase := .slots k, pc := s.pc + 2 } = .next u ∧ u.status = .fatal r))

/-- A fatal condition is precise: nothing but the status, and the tick it ends, differs from the state the instruction
started in, which is that of the cycle with the pc advanced; a fetch fault leaves the pc too (R119,
which the spec marks as derived). -/
def Obligations.FatalConditionsArePrecise : Prop :=
  (∀ (i : Instr) (s t : State) (r : FatalReason), s.status = .live → exec i s = .next t → t.status = .fatal r →
    t = { s with status := .fatal r, phase := .between }) ∧
  (∀ (s t : State) (k : Nat) (r : FatalReason), s.phase = .slots (k + 1) → s.status = .live → step s = .next t →
    t.status = .fatal r →
    t = { s with status := .fatal r, phase := .between, pc := if s.pc.toNat < 0xFFF then s.pc + 2 else s.pc })

/-- No instruction writes the key table, the pause bit, the parameters, the ROM, the log or the host's side
(R34, R36, which is marked as derived). -/
def Obligations.InstructionsLeaveHostState : Prop :=
  ∀ (i : Instr) (s t : State), exec i s = .next t →
    t.keys = s.keys ∧ t.paused = s.paused ∧ t.cfg = s.cfg ∧ t.rom = s.rom ∧ t.log = s.log ∧ t.out = s.out ∧
      t.calls = s.calls ∧ t.frames = s.frames

/-- The instructions that can change VF: the flag setters and Dxyn, and those whose destination names it (R17, R37).
R17's list also has FF0A: Fx0A itself writes no register, and its register is written at the resolution, at the start of
a later tick (R112, R130, spec decision D12; TickStartResolvesKeyWait), so it is not among these. -/
def Obligations.OnlyListedInstructionsWriteVf : Prop :=
  ∀ (i : Instr) (s t : State), exec i s = .next t → t.reg vf ≠ s.reg vf →
    (∃ x y, i = .addReg x y ∨ i = .subReg x y ∨ i = .shr x y ∨ i = .subnReg x y ∨ i = .shl x y) ∨
    (∃ x y n, i = .drw x y n) ∨
    (∃ kk, i = .ldImm vf kk ∨ i = .addImm vf kk ∨ i = .rnd vf kk) ∨
    (∃ y, i = .ldReg vf y ∨ i = .orReg vf y ∨ i = .andReg vf y ∨ i = .xorReg vf y) ∨
    i = .ldFromDt vf ∨ i = .loadRegs vf

/-- Which instructions can change I (R20), a byte of memory (R44), the framebuffer (R33), the stack (R26, spec decision
D25), a timer (R28) and the key wait (R36, which the spec marks as derived). -/
def Obligations.OnlyListedInstructionsWriteOtherState : Prop :=
  ∀ (i : Instr) (s t : State), exec i s = .next t →
    (t.i ≠ s.i → (∃ nnn, i = .ldIndex nnn) ∨ ∃ x, i = .addIndex x ∨ i = .ldFont x) ∧
    (∀ a, t.byteAt a ≠ s.byteAt a →
      (∃ x, i = .ldBcd x ∧ block s.i.toNat 3 a) ∨ ∃ x, i = .storeRegs x ∧ block s.i.toNat (x.toNat + 1) a) ∧
    (t.fb ≠ s.fb → i = .cls ∨ ∃ x y n, i = .drw x y n) ∧
    (t.stack ≠ s.stack → i = .ret ∨ ∃ nnn, i = .call nnn) ∧
    (t.dt ≠ s.dt → ∃ x, i = .ldDt x) ∧ (t.st ≠ s.st → ∃ x, i = .ldSt x) ∧
    (t.waiting ≠ s.waiting → ∃ x, i = .ldKey x)

/-- How each instruction leaves the pc, with `s.pc` the advanced one (`a + 2`), where it raises no fatal condition; an
invalid opcode leaves `a + 2` (R23, which the spec derives from the instructions' rules). -/
def Obligations.PcAfterEveryInstruction : Prop :=
  (∀ (i : Instr) (s t : State), exec i s = .next t → t.status = .live →
    match i with
    | .jp nnn => t.pc.toNat = nnn.toNat
    | .call nnn => t.pc.toNat = nnn.toNat
    | .ret => ∃ l, s.stack = l ++ [t.pc]
    | .jpV0 nnn => t.pc.toNat = nnn.toNat + (s.reg 0).toNat
    | .seImm x kk => t.pc = if s.reg x = kk then s.pc + 2 else s.pc
    | .sneImm x kk => t.pc = if s.reg x = kk then s.pc else s.pc + 2
    | .seReg x y _ => t.pc = if s.reg x = s.reg y then s.pc + 2 else s.pc
    | .sneReg x y _ => t.pc = if s.reg x = s.reg y then s.pc else s.pc + 2
    | .skp x => t.pc = if s.keyDown (BitVec.ofNat 4 (s.reg x).toNat) then s.pc + 2 else s.pc
    | .sknp x => t.pc = if s.keyDown (BitVec.ofNat 4 (s.reg x).toNat) then s.pc else s.pc + 2
    | _ => t.pc = s.pc) ∧
  (∀ (s t : State) (k : Nat) (w : Word), s.phase = .slots (k + 1) → s.running = true → s.fetch = some w →
    decodeWord s.cfg w = none → step s = .next t → t.pc = s.pc + 2)

/-- A halt loop is never left but by the host's pause, reset or quit, and changes nothing but the timers, the key table
and the tick's bookkeeping (R139, spec decision D24). -/
def Obligations.HaltLoopPersists : Prop :=
  ∀ (s t : State), s.haltLoop → step s = .next t →
    (s.phase = .between → s.calls = [] ∨ ∃ keysNow pressed rest, s.calls = .tick keysNow pressed :: rest) →
    t.haltLoop ∧
    t = { s with dt := t.dt, st := t.st, keys := t.keys, phase := t.phase, out := t.out, calls := t.calls, frames := t.frames } ∧
    ((∃ k, s.phase = .slots (k + 1)) → t = { s with phase := t.phase })
end

