-- ==== Sys2Proof/Laws/Decode.lean ====
section
/-! SUPPORT. The fields of a word laid out from fields (30_encoding.md R58), a word rebuilt from its fields, and the
decoder on a word given as a number. -/

namespace Sys2Proof

/-- A field read as a number: the word shifted down and cut (R9, R58). -/
theorem toNat_field (w : Word) (lo len : Nat) :
    (w.extractLsb' lo len).toNat = w.toNat / 2 ^ lo % 2 ^ len := by
  simp [Nat.shiftRight_eq_div_pow]

theorem toNat_fieldB1 (w : Word) : (fieldB1 w).toNat = w.toNat / 4096 := by
  have := w.isLt; rw [fieldB1, toNat_field]; omega

theorem toNat_fieldX (w : Word) : (fieldX w).toNat = w.toNat / 256 % 16 := toNat_field w 8 4

theorem toNat_fieldY (w : Word) : (fieldY w).toNat = w.toNat / 16 % 16 := toNat_field w 4 4

theorem toNat_fieldN (w : Word) : (fieldN w).toNat = w.toNat % 16 := by
  rw [fieldN, toNat_field]; omega

theorem toNat_fieldKk (w : Word) : (fieldKk w).toNat = w.toNat % 256 := by
  rw [fieldKk, toNat_field]; omega

theorem toNat_fieldNnn (w : Word) : (fieldNnn w).toNat = w.toNat % 4096 := by
  rw [fieldNnn, toNat_field]; omega

theorem toNat_highByte (w : Word) : (highByte w).toNat = w.toNat / 256 := by
  have := w.isLt; rw [highByte, toNat_field]; omega

theorem toNat_lowByte (w : Word) : (lowByte w).toNat = w.toNat % 256 := by
  rw [lowByte, toNat_field]; omega

theorem toNat_wordOfBytes (hi lo : Byte) : (wordOfBytes hi lo).toNat = hi.toNat * 256 + lo.toNat := by
  have := hi.isLt; have := lo.isLt; simp [wordOfBytes]; omega

/-- A word is its two bytes, high first (R42). -/
@[simp] theorem wordOfBytes_high_low (w : Word) : wordOfBytes (highByte w) (lowByte w) = w := by
  apply BitVec.eq_of_toNat_eq
  rw [toNat_wordOfBytes, toNat_highByte, toNat_lowByte]
  omega

@[simp] theorem highByte_wordOfBytes (hi lo : Byte) : highByte (wordOfBytes hi lo) = hi := by
  have := lo.isLt
  apply BitVec.eq_of_toNat_eq; rw [toNat_highByte, toNat_wordOfBytes]; omega

@[simp] theorem lowByte_wordOfBytes (hi lo : Byte) : lowByte (wordOfBytes hi lo) = lo := by
  have := lo.isLt
  apply BitVec.eq_of_toNat_eq; rw [toNat_lowByte, toNat_wordOfBytes]; omega

/-! ### The numbers of the three layouts -/

theorem toNat_layXYN (b x y n : Nibble) :
    (layXYN b x y n).toNat = b.toNat * 0x1000 + x.toNat * 0x100 + y.toNat * 0x10 + n.toNat := by
  have := b.isLt; have := x.isLt; have := y.isLt; have := n.isLt
  simp [layXYN]; omega

theorem toNat_layXKK (b x : Nibble) (kk : Byte) :
    (layXKK b x kk).toNat = b.toNat * 0x1000 + x.toNat * 0x100 + kk.toNat := by
  have := b.isLt; have := x.isLt; have := kk.isLt
  simp [layXKK]; omega

theorem toNat_layNNN (b : Nibble) (nnn : Imm12) : (layNNN b nnn).toNat = b.toNat * 0x1000 + nnn.toNat := by
  have := b.isLt; have := nnn.isLt
  simp [layNNN]; omega

/-! ### The fields of the three layouts -/

section Fields
variable (b x y n : Nibble) (kk : Byte) (nnn : Imm12)

@[simp] theorem fieldB1_layXYN : fieldB1 (layXYN b x y n) = b := by
  have := x.isLt; have := y.isLt; have := n.isLt
  apply BitVec.eq_of_toNat_eq; rw [toNat_fieldB1, toNat_layXYN]; omega

@[simp] theorem fieldX_layXYN : fieldX (layXYN b x y n) = x := by
  have := x.isLt; have := y.isLt; have := n.isLt
  apply BitVec.eq_of_toNat_eq; rw [toNat_fieldX, toNat_layXYN]; omega

@[simp] theorem fieldY_layXYN : fieldY (layXYN b x y n) = y := by
  have := y.isLt; have := n.isLt
  apply BitVec.eq_of_toNat_eq; rw [toNat_fieldY, toNat_layXYN]; omega

@[simp] theorem fieldN_layXYN : fieldN (layXYN b x y n) = n := by
  have := n.isLt
  apply BitVec.eq_of_toNat_eq; rw [toNat_fieldN, toNat_layXYN]; omega

@[simp] theorem fieldB1_layXKK : fieldB1 (layXKK b x kk) = b := by
  have := x.isLt; have := kk.isLt
  apply BitVec.eq_of_toNat_eq; rw [toNat_fieldB1, toNat_layXKK]; omega

@[simp] theorem fieldX_layXKK : fieldX (layXKK b x kk) = x := by
  have := x.isLt; have := kk.isLt
  apply BitVec.eq_of_toNat_eq; rw [toNat_fieldX, toNat_layXKK]; omega

@[simp] theorem fieldKk_layXKK : fieldKk (layXKK b x kk) = kk := by
  have := kk.isLt
  apply BitVec.eq_of_toNat_eq; rw [toNat_fieldKk, toNat_layXKK]; omega

@[simp] theorem fieldB1_layNNN : fieldB1 (layNNN b nnn) = b := by
  have := nnn.isLt
  apply BitVec.eq_of_toNat_eq; rw [toNat_fieldB1, toNat_layNNN]; omega

@[simp] theorem fieldNnn_layNNN : fieldNnn (layNNN b nnn) = nnn := by
  have := nnn.isLt
  apply BitVec.eq_of_toNat_eq; rw [toNat_fieldNnn, toNat_layNNN]; omega

end Fields

/-! ### A word rebuilt from its fields -/

/-- A word is its four nibbles (R58). -/
theorem layXYN_fields (w : Word) : layXYN (fieldB1 w) (fieldX w) (fieldY w) (fieldN w) = w := by
  have := w.isLt
  apply BitVec.eq_of_toNat_eq
  rw [toNat_layXYN, toNat_fieldB1, toNat_fieldX, toNat_fieldY, toNat_fieldN]; omega

theorem layXKK_fields (w : Word) : layXKK (fieldB1 w) (fieldX w) (fieldKk w) = w := by
  have := w.isLt
  apply BitVec.eq_of_toNat_eq
  rw [toNat_layXKK, toNat_fieldB1, toNat_fieldX, toNat_fieldKk]; omega

theorem layNNN_fields (w : Word) : layNNN (fieldB1 w) (fieldNnn w) = w := by
  have := w.isLt
  apply BitVec.eq_of_toNat_eq
  rw [toNat_layNNN, toNat_fieldB1, toNat_fieldNnn]; omega

/-! ### The decoder on two bytes -/

/-- Two bytes decode as the word they form, with no byte left over (R42, R57). -/
theorem decode_two (c : Config) (hi lo : Byte) :
    decode c [hi, lo] =
      match decodeWord c (wordOfBytes hi lo) with
      | some i => .ok (i, [])
      | none => .error (.invalidOpcode (wordOfBytes hi lo)) := rfl

theorem decode_two_ok {c : Config} {hi lo : Byte} {i : Instr} :
    decode c [hi, lo] = .ok (i, []) ↔ decodeWord c (wordOfBytes hi lo) = some i := by
  rw [decode_two]; cases decodeWord c (wordOfBytes hi lo) <;> simp

/-! ### The bits a row of the opcode map examines (R67) -/

theorem toNat_and_F000 (w : Word) : (w &&& 0xF000).toNat = w.toNat / 4096 * 4096 := by
  have h : w &&& (0xF000 : Word) = (w >>> 12) <<< 12 := by
    ext i hi; interval_cases i <;> simp
  have := w.isLt
  rw [h]; simp [Nat.shiftLeft_eq, Nat.shiftRight_eq_div_pow]; omega

theorem toNat_and_000F (w : Word) : (w &&& 0x000F).toNat = w.toNat % 16 := by
  simpa using Nat.and_two_pow_sub_one_eq_mod w.toNat 4

theorem toNat_and_00FF (w : Word) : (w &&& 0x00FF).toNat = w.toNat % 256 := by
  simpa using Nat.and_two_pow_sub_one_eq_mod w.toNat 8

theorem toNat_and_F00F (w : Word) : (w &&& 0xF00F).toNat = w.toNat / 4096 * 4096 + w.toNat % 16 := by
  have h : w &&& 0xF00F = (w &&& 0xF000) + (w &&& 0x000F) := by
    rw [BitVec.add_eq_or_of_and_eq_zero]
    · ext i hi; interval_cases i <;> simp
    · ext i hi; interval_cases i <;> simp
  have := w.isLt
  rw [h, BitVec.toNat_add, toNat_and_F000, toNat_and_000F]; omega

theorem toNat_and_F0FF (w : Word) : (w &&& 0xF0FF).toNat = w.toNat / 4096 * 4096 + w.toNat % 256 := by
  have h : w &&& 0xF0FF = (w &&& 0xF000) + (w &&& 0x00FF) := by
    rw [BitVec.add_eq_or_of_and_eq_zero]
    · ext i hi; interval_cases i <;> simp
    · ext i hi; interval_cases i <;> simp
  have := w.isLt
  rw [h, BitVec.toNat_add, toNat_and_F000, toNat_and_00FF]; omega

theorem OpcodeRow.selects_iff (r : OpcodeRow) (w : Word) :
    r.selects w = true ↔ (w &&& r.mask).toNat = r.value.toNat := by
  simp [OpcodeRow.selects, BitVec.toNat_eq]

end Sys2Proof
end

