-- ==== Sys2Proof/Laws/Memory.lean ====
section
/-! SUPPORT. The laws of memory: what a byte reads as after a store, that every memory operation keeps the canonical
form, and that memories in canonical form which read alike are equal. -/

namespace Sys2Proof.Machine

variable (c : Config)

/-! ### The canonical form, unfolded once -/

@[simp] theorem Memory.wf_nil : Memory.wf c [] = true := rfl

theorem Memory.wf_cons {c : Config} {a : Nat} {b : Byte} {rest : Memory} :
    Memory.wf c ((a, b) :: rest) = true ↔
      a < memSize ∧ b ≠ c.initialByte a ∧ Memory.above a rest = true ∧ Memory.wf c rest = true := by
  simp [Memory.wf, and_assoc]

@[simp] theorem Memory.above_nil (a : Nat) : Memory.above a [] = true := rfl

@[simp] theorem Memory.above_cons (a k : Nat) (b : Byte) (rest : Memory) :
    Memory.above a ((k, b) :: rest) = true ↔ a < k := by simp [Memory.above]

theorem Memory.above_mono {a k : Nat} (h : a ≤ k) {m : Memory} (hm : Memory.above k m = true) :
    Memory.above a m = true := by
  cases m with
  | nil => rfl
  | cons p rest => obtain ⟨j, b⟩ := p; simp at *; omega

/-- Below the first address nothing is listed. -/
theorem Memory.find_of_above {c : Config} {m : Memory} (hw : m.wf c = true) {a : Nat} (h : Memory.above a m = true) :
    m.find a = none := by
  induction m with
  | nil => rfl
  | cons p rest ih =>
    obtain ⟨k, b⟩ := p
    obtain ⟨-, -, hk, hr⟩ := Memory.wf_cons.1 hw
    rw [Memory.above_cons] at h
    rw [Memory.find, if_neg (by omega)]
    exact ih hr (Memory.above_mono h.le hk)

/-! ### Listing and unlisting an address -/

theorem Memory.find_insert (m : Memory) (a : Nat) (b : Byte) (a' : Nat) :
    (m.insert a b).find a' = if a' = a then some b else m.find a' := by
  induction m with
  | nil => simp [Memory.insert, Memory.find, eq_comm]
  | cons p rest ih =>
    obtain ⟨k, v⟩ := p
    unfold Memory.insert
    split
    · simp [Memory.find, eq_comm]
    · split
      · subst a; by_cases h : k = a' <;> simp [Memory.find, h, eq_comm (a := a')]
      · by_cases h : k = a'
        · subst h; simp [Memory.find]; omega
        · simp [Memory.find, h, ih]

theorem Memory.find_erase {c : Config} {m : Memory} (hw : m.wf c = true) (a a' : Nat) :
    (m.erase a).find a' = if a' = a then none else m.find a' := by
  induction m with
  | nil => simp [Memory.erase, Memory.find]
  | cons p rest ih =>
    obtain ⟨k, v⟩ := p
    obtain ⟨-, -, hk, hr⟩ := Memory.wf_cons.1 hw
    unfold Memory.erase
    split
    · subst a
      by_cases h : a' = k
      · subst h; simp [Memory.find_of_above hr hk]
      · simp [Memory.find, h, Ne.symm h]
    · by_cases h : k = a'
      · subst h; simp [Memory.find, *]
      · simp [Memory.find, h, ih hr]

/-- Unlisting an address leaves every other one as it was, in any memory. -/
theorem Memory.find_erase_other (m : Memory) {a a' : Nat} (h : a' ≠ a) : (m.erase a).find a' = m.find a' := by
  induction m with
  | nil => rfl
  | cons p rest ih =>
    obtain ⟨k, v⟩ := p
    unfold Memory.erase
    split
    · subst a; simp [Memory.find, h.symm]
    · simp [Memory.find, ih]

theorem Memory.above_insert {m : Memory} {j a : Nat} {b : Byte} (hj : j < a) (h : Memory.above j m = true) :
    Memory.above j (m.insert a b) = true := by
  cases m with
  | nil => simpa [Memory.insert] using hj
  | cons p rest =>
    obtain ⟨k, v⟩ := p
    unfold Memory.insert
    split
    · simpa using hj
    · split <;> simp_all

theorem Memory.above_erase {c : Config} {m : Memory} {j a : Nat} (hw : m.wf c = true) (h : Memory.above j m = true) :
    Memory.above j (m.erase a) = true := by
  cases m with
  | nil => rfl
  | cons p rest =>
    obtain ⟨k, v⟩ := p
    obtain ⟨-, -, hk, -⟩ := Memory.wf_cons.1 hw
    rw [Memory.above_cons] at h
    unfold Memory.erase
    split
    · exact Memory.above_mono h.le hk
    · simpa using h

theorem Memory.insert_wf {m : Memory} (hw : m.wf c = true) {a : Nat} {b : Byte} (ha : a < memSize)
    (hb : b ≠ c.initialByte a) : (m.insert a b).wf c = true := by
  induction m with
  | nil => exact Memory.wf_cons.2 ⟨ha, hb, rfl, rfl⟩
  | cons p rest ih =>
    obtain ⟨k, v⟩ := p
    have hw' := Memory.wf_cons.1 hw
    obtain ⟨hk1, hk2, hk3, hr⟩ := hw'
    unfold Memory.insert
    split
    · next h => exact Memory.wf_cons.2 ⟨ha, hb, by simpa using h, hw⟩
    · split
      · next h => subst h; exact Memory.wf_cons.2 ⟨ha, hb, hk3, hr⟩
      · exact Memory.wf_cons.2 ⟨hk1, hk2, Memory.above_insert (by omega) hk3, ih hr⟩

theorem Memory.erase_wf {m : Memory} (hw : m.wf c = true) (a : Nat) : (m.erase a).wf c = true := by
  induction m with
  | nil => rfl
  | cons p rest ih =>
    obtain ⟨k, v⟩ := p
    obtain ⟨hk1, hk2, hk3, hr⟩ := Memory.wf_cons.1 hw
    unfold Memory.erase
    split
    · exact hr
    · exact Memory.wf_cons.2 ⟨hk1, hk2, Memory.above_erase hr hk3, ih hr⟩

/-! ### The memory operations -/

/-- A store keeps the canonical form. -/
theorem Memory.write_wf {m : Memory} (hw : m.wf c = true) {a : Nat} (ha : a < memSize) (b : Byte) :
    (m.write c a b).wf c = true := by
  unfold Memory.write
  split
  · exact Memory.erase_wf c hw a
  · next h => exact Memory.insert_wf c hw ha h

/-- A store leaves the bytes at every other address, in any memory. -/
theorem Memory.read_write_other (m : Memory) {a a' : Nat} (h : a' ≠ a) (b : Byte) :
    (m.write c a b).read c a' = m.read c a' := by
  unfold Memory.write
  split <;> simp [Memory.read, Memory.find_insert, Memory.find_erase_other, h]

/-- The stored byte is what its address then reads as. -/
theorem Memory.read_write_same {m : Memory} (hw : m.wf c = true) (a : Nat) (b : Byte) :
    (m.write c a b).read c a = b := by
  unfold Memory.write
  split
  · next h => simp [Memory.read, Memory.find_erase hw, h]
  · simp [Memory.read, Memory.find_insert]

/-- A block store keeps the canonical form. -/
theorem Memory.writeBlock_wf {m : Memory} (hw : m.wf c = true) (bs : List Byte) (a : Nat)
    (h : a + bs.length ≤ memSize) : (m.writeBlock c a bs).wf c = true := by
  induction bs generalizing m a with
  | nil => exact hw
  | cons b rest ih =>
    simp only [List.length_cons] at h
    exact ih (Memory.write_wf c hw (by omega) b) (a + 1) (by omega)

/-- A block store leaves the bytes outside its block, in any memory. -/
theorem Memory.read_writeBlock_other (m : Memory) (bs : List Byte) (a : Nat) {a' : Nat}
    (h : a' < a ∨ a + bs.length ≤ a') : (m.writeBlock c a bs).read c a' = m.read c a' := by
  induction bs generalizing m a with
  | nil => rfl
  | cons b rest ih =>
    simp only [List.length_cons] at h
    rw [Memory.writeBlock, ih _ (a + 1) (by omega), Memory.read_write_other c m (by omega)]

/-- After a block store the addresses of its block read as the bytes stored, in order. -/
theorem Memory.read_writeBlock_inside {m : Memory} (hw : m.wf c = true) (bs : List Byte) (a k : Nat)
    (hk : k < bs.length) (h : a + bs.length ≤ memSize) :
    (m.writeBlock c a bs).read c (a + k) = bs[k] := by
  induction bs generalizing m a k with
  | nil => simp at hk
  | cons b rest ih =>
    simp only [List.length_cons] at h hk
    rw [Memory.writeBlock]
    cases k with
    | zero => simpa [Memory.read_writeBlock_other] using Memory.read_write_same c hw a b
    | succ k =>
      have ha : a < memSize := by omega
      have := ih (Memory.write_wf c hw ha b) (a + 1) k (by omega) (by omega)
      simpa [Nat.add_assoc, Nat.add_comm 1 k] using this

end Sys2Proof.Machine
end

