-- ==== Sys2Proof/Laws/State.lean ====
section
/-! SUPPORT. What each named update of the state leaves and writes, one lemma per field per update, true by unfolding;
so that no later proof unfolds a record update. Then the registers and the byte of memory through each update. -/

namespace Sys2Proof.Machine

variable (s : State)

/-! ### setReg -/

@[simp] theorem State.setReg_cfg (x : Reg) (b : Byte) : (s.setReg x b).cfg = s.cfg := rfl
@[simp] theorem State.setReg_rom (x : Reg) (b : Byte) : (s.setReg x b).rom = s.rom := rfl
@[simp] theorem State.setReg_mem (x : Reg) (b : Byte) : (s.setReg x b).mem = s.mem := rfl
@[simp] theorem State.setReg_v (x : Reg) (b : Byte) : (s.setReg x b).v = s.v.set x.toNat b x.isLt := rfl
@[simp] theorem State.setReg_i (x : Reg) (b : Byte) : (s.setReg x b).i = s.i := rfl
@[simp] theorem State.setReg_pc (x : Reg) (b : Byte) : (s.setReg x b).pc = s.pc := rfl
@[simp] theorem State.setReg_stack (x : Reg) (b : Byte) : (s.setReg x b).stack = s.stack := rfl
@[simp] theorem State.setReg_dt (x : Reg) (b : Byte) : (s.setReg x b).dt = s.dt := rfl
@[simp] theorem State.setReg_st (x : Reg) (b : Byte) : (s.setReg x b).st = s.st := rfl
@[simp] theorem State.setReg_fb (x : Reg) (b : Byte) : (s.setReg x b).fb = s.fb := rfl
@[simp] theorem State.setReg_keys (x : Reg) (b : Byte) : (s.setReg x b).keys = s.keys := rfl
@[simp] theorem State.setReg_paused (x : Reg) (b : Byte) : (s.setReg x b).paused = s.paused := rfl
@[simp] theorem State.setReg_waiting (x : Reg) (b : Byte) : (s.setReg x b).waiting = s.waiting := rfl
@[simp] theorem State.setReg_status (x : Reg) (b : Byte) : (s.setReg x b).status = s.status := rfl
@[simp] theorem State.setReg_log (x : Reg) (b : Byte) : (s.setReg x b).log = s.log := rfl
@[simp] theorem State.setReg_phase (x : Reg) (b : Byte) : (s.setReg x b).phase = s.phase := rfl
@[simp] theorem State.setReg_out (x : Reg) (b : Byte) : (s.setReg x b).out = s.out := rfl
@[simp] theorem State.setReg_calls (x : Reg) (b : Byte) : (s.setReg x b).calls = s.calls := rfl
@[simp] theorem State.setReg_draws (x : Reg) (b : Byte) : (s.setReg x b).draws = s.draws := rfl
@[simp] theorem State.setReg_frames (x : Reg) (b : Byte) : (s.setReg x b).frames = s.frames := rfl

/-! ### setIndex -/

@[simp] theorem State.setIndex_cfg (n : Nat) : (s.setIndex n).cfg = s.cfg := rfl
@[simp] theorem State.setIndex_rom (n : Nat) : (s.setIndex n).rom = s.rom := rfl
@[simp] theorem State.setIndex_mem (n : Nat) : (s.setIndex n).mem = s.mem := rfl
@[simp] theorem State.setIndex_v (n : Nat) : (s.setIndex n).v = s.v := rfl
@[simp] theorem State.setIndex_i (n : Nat) : (s.setIndex n).i = BitVec.ofNat 16 (n % memSize) := rfl
@[simp] theorem State.setIndex_pc (n : Nat) : (s.setIndex n).pc = s.pc := rfl
@[simp] theorem State.setIndex_stack (n : Nat) : (s.setIndex n).stack = s.stack := rfl
@[simp] theorem State.setIndex_dt (n : Nat) : (s.setIndex n).dt = s.dt := rfl
@[simp] theorem State.setIndex_st (n : Nat) : (s.setIndex n).st = s.st := rfl
@[simp] theorem State.setIndex_fb (n : Nat) : (s.setIndex n).fb = s.fb := rfl
@[simp] theorem State.setIndex_keys (n : Nat) : (s.setIndex n).keys = s.keys := rfl
@[simp] theorem State.setIndex_paused (n : Nat) : (s.setIndex n).paused = s.paused := rfl
@[simp] theorem State.setIndex_waiting (n : Nat) : (s.setIndex n).waiting = s.waiting := rfl
@[simp] theorem State.setIndex_status (n : Nat) : (s.setIndex n).status = s.status := rfl
@[simp] theorem State.setIndex_log (n : Nat) : (s.setIndex n).log = s.log := rfl
@[simp] theorem State.setIndex_phase (n : Nat) : (s.setIndex n).phase = s.phase := rfl
@[simp] theorem State.setIndex_out (n : Nat) : (s.setIndex n).out = s.out := rfl
@[simp] theorem State.setIndex_calls (n : Nat) : (s.setIndex n).calls = s.calls := rfl
@[simp] theorem State.setIndex_draws (n : Nat) : (s.setIndex n).draws = s.draws := rfl
@[simp] theorem State.setIndex_frames (n : Nat) : (s.setIndex n).frames = s.frames := rfl

/-! ### setPc -/

@[simp] theorem State.setPc_cfg (a : Word) : (s.setPc a).cfg = s.cfg := rfl
@[simp] theorem State.setPc_rom (a : Word) : (s.setPc a).rom = s.rom := rfl
@[simp] theorem State.setPc_mem (a : Word) : (s.setPc a).mem = s.mem := rfl
@[simp] theorem State.setPc_v (a : Word) : (s.setPc a).v = s.v := rfl
@[simp] theorem State.setPc_i (a : Word) : (s.setPc a).i = s.i := rfl
@[simp] theorem State.setPc_pc (a : Word) : (s.setPc a).pc = a := rfl
@[simp] theorem State.setPc_stack (a : Word) : (s.setPc a).stack = s.stack := rfl
@[simp] theorem State.setPc_dt (a : Word) : (s.setPc a).dt = s.dt := rfl
@[simp] theorem State.setPc_st (a : Word) : (s.setPc a).st = s.st := rfl
@[simp] theorem State.setPc_fb (a : Word) : (s.setPc a).fb = s.fb := rfl
@[simp] theorem State.setPc_keys (a : Word) : (s.setPc a).keys = s.keys := rfl
@[simp] theorem State.setPc_paused (a : Word) : (s.setPc a).paused = s.paused := rfl
@[simp] theorem State.setPc_waiting (a : Word) : (s.setPc a).waiting = s.waiting := rfl
@[simp] theorem State.setPc_status (a : Word) : (s.setPc a).status = s.status := rfl
@[simp] theorem State.setPc_log (a : Word) : (s.setPc a).log = s.log := rfl
@[simp] theorem State.setPc_phase (a : Word) : (s.setPc a).phase = s.phase := rfl
@[simp] theorem State.setPc_out (a : Word) : (s.setPc a).out = s.out := rfl
@[simp] theorem State.setPc_calls (a : Word) : (s.setPc a).calls = s.calls := rfl
@[simp] theorem State.setPc_draws (a : Word) : (s.setPc a).draws = s.draws := rfl
@[simp] theorem State.setPc_frames (a : Word) : (s.setPc a).frames = s.frames := rfl

/-! ### advance -/

@[simp] theorem State.advance_cfg : (s.advance).cfg = s.cfg := rfl
@[simp] theorem State.advance_rom : (s.advance).rom = s.rom := rfl
@[simp] theorem State.advance_mem : (s.advance).mem = s.mem := rfl
@[simp] theorem State.advance_v : (s.advance).v = s.v := rfl
@[simp] theorem State.advance_i : (s.advance).i = s.i := rfl
@[simp] theorem State.advance_pc : (s.advance).pc = s.pc + 2 := rfl
@[simp] theorem State.advance_stack : (s.advance).stack = s.stack := rfl
@[simp] theorem State.advance_dt : (s.advance).dt = s.dt := rfl
@[simp] theorem State.advance_st : (s.advance).st = s.st := rfl
@[simp] theorem State.advance_fb : (s.advance).fb = s.fb := rfl
@[simp] theorem State.advance_keys : (s.advance).keys = s.keys := rfl
@[simp] theorem State.advance_paused : (s.advance).paused = s.paused := rfl
@[simp] theorem State.advance_waiting : (s.advance).waiting = s.waiting := rfl
@[simp] theorem State.advance_status : (s.advance).status = s.status := rfl
@[simp] theorem State.advance_log : (s.advance).log = s.log := rfl
@[simp] theorem State.advance_phase : (s.advance).phase = s.phase := rfl
@[simp] theorem State.advance_out : (s.advance).out = s.out := rfl
@[simp] theorem State.advance_calls : (s.advance).calls = s.calls := rfl
@[simp] theorem State.advance_draws : (s.advance).draws = s.draws := rfl
@[simp] theorem State.advance_frames : (s.advance).frames = s.frames := rfl

/-! ### setDt -/

@[simp] theorem State.setDt_cfg (b : Byte) : (s.setDt b).cfg = s.cfg := rfl
@[simp] theorem State.setDt_rom (b : Byte) : (s.setDt b).rom = s.rom := rfl
@[simp] theorem State.setDt_mem (b : Byte) : (s.setDt b).mem = s.mem := rfl
@[simp] theorem State.setDt_v (b : Byte) : (s.setDt b).v = s.v := rfl
@[simp] theorem State.setDt_i (b : Byte) : (s.setDt b).i = s.i := rfl
@[simp] theorem State.setDt_pc (b : Byte) : (s.setDt b).pc = s.pc := rfl
@[simp] theorem State.setDt_stack (b : Byte) : (s.setDt b).stack = s.stack := rfl
@[simp] theorem State.setDt_dt (b : Byte) : (s.setDt b).dt = b := rfl
@[simp] theorem State.setDt_st (b : Byte) : (s.setDt b).st = s.st := rfl
@[simp] theorem State.setDt_fb (b : Byte) : (s.setDt b).fb = s.fb := rfl
@[simp] theorem State.setDt_keys (b : Byte) : (s.setDt b).keys = s.keys := rfl
@[simp] theorem State.setDt_paused (b : Byte) : (s.setDt b).paused = s.paused := rfl
@[simp] theorem State.setDt_waiting (b : Byte) : (s.setDt b).waiting = s.waiting := rfl
@[simp] theorem State.setDt_status (b : Byte) : (s.setDt b).status = s.status := rfl
@[simp] theorem State.setDt_log (b : Byte) : (s.setDt b).log = s.log := rfl
@[simp] theorem State.setDt_phase (b : Byte) : (s.setDt b).phase = s.phase := rfl
@[simp] theorem State.setDt_out (b : Byte) : (s.setDt b).out = s.out := rfl
@[simp] theorem State.setDt_calls (b : Byte) : (s.setDt b).calls = s.calls := rfl
@[simp] theorem State.setDt_draws (b : Byte) : (s.setDt b).draws = s.draws := rfl
@[simp] theorem State.setDt_frames (b : Byte) : (s.setDt b).frames = s.frames := rfl

/-! ### setSt -/

@[simp] theorem State.setSt_cfg (b : Byte) : (s.setSt b).cfg = s.cfg := rfl
@[simp] theorem State.setSt_rom (b : Byte) : (s.setSt b).rom = s.rom := rfl
@[simp] theorem State.setSt_mem (b : Byte) : (s.setSt b).mem = s.mem := rfl
@[simp] theorem State.setSt_v (b : Byte) : (s.setSt b).v = s.v := rfl
@[simp] theorem State.setSt_i (b : Byte) : (s.setSt b).i = s.i := rfl
@[simp] theorem State.setSt_pc (b : Byte) : (s.setSt b).pc = s.pc := rfl
@[simp] theorem State.setSt_stack (b : Byte) : (s.setSt b).stack = s.stack := rfl
@[simp] theorem State.setSt_dt (b : Byte) : (s.setSt b).dt = s.dt := rfl
@[simp] theorem State.setSt_st (b : Byte) : (s.setSt b).st = b := rfl
@[simp] theorem State.setSt_fb (b : Byte) : (s.setSt b).fb = s.fb := rfl
@[simp] theorem State.setSt_keys (b : Byte) : (s.setSt b).keys = s.keys := rfl
@[simp] theorem State.setSt_paused (b : Byte) : (s.setSt b).paused = s.paused := rfl
@[simp] theorem State.setSt_waiting (b : Byte) : (s.setSt b).waiting = s.waiting := rfl
@[simp] theorem State.setSt_status (b : Byte) : (s.setSt b).status = s.status := rfl
@[simp] theorem State.setSt_log (b : Byte) : (s.setSt b).log = s.log := rfl
@[simp] theorem State.setSt_phase (b : Byte) : (s.setSt b).phase = s.phase := rfl
@[simp] theorem State.setSt_out (b : Byte) : (s.setSt b).out = s.out := rfl
@[simp] theorem State.setSt_calls (b : Byte) : (s.setSt b).calls = s.calls := rfl
@[simp] theorem State.setSt_draws (b : Byte) : (s.setSt b).draws = s.draws := rfl
@[simp] theorem State.setSt_frames (b : Byte) : (s.setSt b).frames = s.frames := rfl

/-! ### setFb -/

@[simp] theorem State.setFb_cfg (f : Framebuffer) : (s.setFb f).cfg = s.cfg := rfl
@[simp] theorem State.setFb_rom (f : Framebuffer) : (s.setFb f).rom = s.rom := rfl
@[simp] theorem State.setFb_mem (f : Framebuffer) : (s.setFb f).mem = s.mem := rfl
@[simp] theorem State.setFb_v (f : Framebuffer) : (s.setFb f).v = s.v := rfl
@[simp] theorem State.setFb_i (f : Framebuffer) : (s.setFb f).i = s.i := rfl
@[simp] theorem State.setFb_pc (f : Framebuffer) : (s.setFb f).pc = s.pc := rfl
@[simp] theorem State.setFb_stack (f : Framebuffer) : (s.setFb f).stack = s.stack := rfl
@[simp] theorem State.setFb_dt (f : Framebuffer) : (s.setFb f).dt = s.dt := rfl
@[simp] theorem State.setFb_st (f : Framebuffer) : (s.setFb f).st = s.st := rfl
@[simp] theorem State.setFb_fb (f : Framebuffer) : (s.setFb f).fb = f := rfl
@[simp] theorem State.setFb_keys (f : Framebuffer) : (s.setFb f).keys = s.keys := rfl
@[simp] theorem State.setFb_paused (f : Framebuffer) : (s.setFb f).paused = s.paused := rfl
@[simp] theorem State.setFb_waiting (f : Framebuffer) : (s.setFb f).waiting = s.waiting := rfl
@[simp] theorem State.setFb_status (f : Framebuffer) : (s.setFb f).status = s.status := rfl
@[simp] theorem State.setFb_log (f : Framebuffer) : (s.setFb f).log = s.log := rfl
@[simp] theorem State.setFb_phase (f : Framebuffer) : (s.setFb f).phase = s.phase := rfl
@[simp] theorem State.setFb_out (f : Framebuffer) : (s.setFb f).out = s.out := rfl
@[simp] theorem State.setFb_calls (f : Framebuffer) : (s.setFb f).calls = s.calls := rfl
@[simp] theorem State.setFb_draws (f : Framebuffer) : (s.setFb f).draws = s.draws := rfl
@[simp] theorem State.setFb_frames (f : Framebuffer) : (s.setFb f).frames = s.frames := rfl

/-! ### setStack -/

@[simp] theorem State.setStack_cfg (l : List Word) : (s.setStack l).cfg = s.cfg := rfl
@[simp] theorem State.setStack_rom (l : List Word) : (s.setStack l).rom = s.rom := rfl
@[simp] theorem State.setStack_mem (l : List Word) : (s.setStack l).mem = s.mem := rfl
@[simp] theorem State.setStack_v (l : List Word) : (s.setStack l).v = s.v := rfl
@[simp] theorem State.setStack_i (l : List Word) : (s.setStack l).i = s.i := rfl
@[simp] theorem State.setStack_pc (l : List Word) : (s.setStack l).pc = s.pc := rfl
@[simp] theorem State.setStack_stack (l : List Word) : (s.setStack l).stack = l := rfl
@[simp] theorem State.setStack_dt (l : List Word) : (s.setStack l).dt = s.dt := rfl
@[simp] theorem State.setStack_st (l : List Word) : (s.setStack l).st = s.st := rfl
@[simp] theorem State.setStack_fb (l : List Word) : (s.setStack l).fb = s.fb := rfl
@[simp] theorem State.setStack_keys (l : List Word) : (s.setStack l).keys = s.keys := rfl
@[simp] theorem State.setStack_paused (l : List Word) : (s.setStack l).paused = s.paused := rfl
@[simp] theorem State.setStack_waiting (l : List Word) : (s.setStack l).waiting = s.waiting := rfl
@[simp] theorem State.setStack_status (l : List Word) : (s.setStack l).status = s.status := rfl
@[simp] theorem State.setStack_log (l : List Word) : (s.setStack l).log = s.log := rfl
@[simp] theorem State.setStack_phase (l : List Word) : (s.setStack l).phase = s.phase := rfl
@[simp] theorem State.setStack_out (l : List Word) : (s.setStack l).out = s.out := rfl
@[simp] theorem State.setStack_calls (l : List Word) : (s.setStack l).calls = s.calls := rfl
@[simp] theorem State.setStack_draws (l : List Word) : (s.setStack l).draws = s.draws := rfl
@[simp] theorem State.setStack_frames (l : List Word) : (s.setStack l).frames = s.frames := rfl

/-! ### awaitKey -/

@[simp] theorem State.awaitKey_cfg (x : Reg) : (s.awaitKey x).cfg = s.cfg := rfl
@[simp] theorem State.awaitKey_rom (x : Reg) : (s.awaitKey x).rom = s.rom := rfl
@[simp] theorem State.awaitKey_mem (x : Reg) : (s.awaitKey x).mem = s.mem := rfl
@[simp] theorem State.awaitKey_v (x : Reg) : (s.awaitKey x).v = s.v := rfl
@[simp] theorem State.awaitKey_i (x : Reg) : (s.awaitKey x).i = s.i := rfl
@[simp] theorem State.awaitKey_pc (x : Reg) : (s.awaitKey x).pc = s.pc := rfl
@[simp] theorem State.awaitKey_stack (x : Reg) : (s.awaitKey x).stack = s.stack := rfl
@[simp] theorem State.awaitKey_dt (x : Reg) : (s.awaitKey x).dt = s.dt := rfl
@[simp] theorem State.awaitKey_st (x : Reg) : (s.awaitKey x).st = s.st := rfl
@[simp] theorem State.awaitKey_fb (x : Reg) : (s.awaitKey x).fb = s.fb := rfl
@[simp] theorem State.awaitKey_keys (x : Reg) : (s.awaitKey x).keys = s.keys := rfl
@[simp] theorem State.awaitKey_paused (x : Reg) : (s.awaitKey x).paused = s.paused := rfl
@[simp] theorem State.awaitKey_waiting (x : Reg) : (s.awaitKey x).waiting = some x := rfl
@[simp] theorem State.awaitKey_status (x : Reg) : (s.awaitKey x).status = s.status := rfl
@[simp] theorem State.awaitKey_log (x : Reg) : (s.awaitKey x).log = s.log := rfl
@[simp] theorem State.awaitKey_phase (x : Reg) : (s.awaitKey x).phase = s.phase := rfl
@[simp] theorem State.awaitKey_out (x : Reg) : (s.awaitKey x).out = s.out := rfl
@[simp] theorem State.awaitKey_calls (x : Reg) : (s.awaitKey x).calls = s.calls := rfl
@[simp] theorem State.awaitKey_draws (x : Reg) : (s.awaitKey x).draws = s.draws := rfl
@[simp] theorem State.awaitKey_frames (x : Reg) : (s.awaitKey x).frames = s.frames := rfl

/-! ### logInvalid -/

@[simp] theorem State.logInvalid_cfg (w : Word) : (s.logInvalid w).cfg = s.cfg := rfl
@[simp] theorem State.logInvalid_rom (w : Word) : (s.logInvalid w).rom = s.rom := rfl
@[simp] theorem State.logInvalid_mem (w : Word) : (s.logInvalid w).mem = s.mem := rfl
@[simp] theorem State.logInvalid_v (w : Word) : (s.logInvalid w).v = s.v := rfl
@[simp] theorem State.logInvalid_i (w : Word) : (s.logInvalid w).i = s.i := rfl
@[simp] theorem State.logInvalid_pc (w : Word) : (s.logInvalid w).pc = s.pc := rfl
@[simp] theorem State.logInvalid_stack (w : Word) : (s.logInvalid w).stack = s.stack := rfl
@[simp] theorem State.logInvalid_dt (w : Word) : (s.logInvalid w).dt = s.dt := rfl
@[simp] theorem State.logInvalid_st (w : Word) : (s.logInvalid w).st = s.st := rfl
@[simp] theorem State.logInvalid_fb (w : Word) : (s.logInvalid w).fb = s.fb := rfl
@[simp] theorem State.logInvalid_keys (w : Word) : (s.logInvalid w).keys = s.keys := rfl
@[simp] theorem State.logInvalid_paused (w : Word) : (s.logInvalid w).paused = s.paused := rfl
@[simp] theorem State.logInvalid_waiting (w : Word) : (s.logInvalid w).waiting = s.waiting := rfl
@[simp] theorem State.logInvalid_status (w : Word) : (s.logInvalid w).status = s.status := rfl
@[simp] theorem State.logInvalid_log (w : Word) : (s.logInvalid w).log = s.log ++ [w] := rfl
@[simp] theorem State.logInvalid_phase (w : Word) : (s.logInvalid w).phase = s.phase := rfl
@[simp] theorem State.logInvalid_out (w : Word) : (s.logInvalid w).out = s.out := rfl
@[simp] theorem State.logInvalid_calls (w : Word) : (s.logInvalid w).calls = s.calls := rfl
@[simp] theorem State.logInvalid_draws (w : Word) : (s.logInvalid w).draws = s.draws := rfl
@[simp] theorem State.logInvalid_frames (w : Word) : (s.logInvalid w).frames = s.frames := rfl

/-! ### storeBytes -/

@[simp] theorem State.storeBytes_cfg (a : Nat) (bs : List Byte) : (s.storeBytes a bs).cfg = s.cfg := rfl
@[simp] theorem State.storeBytes_rom (a : Nat) (bs : List Byte) : (s.storeBytes a bs).rom = s.rom := rfl
@[simp] theorem State.storeBytes_mem (a : Nat) (bs : List Byte) : (s.storeBytes a bs).mem = s.mem.writeBlock s.cfg a bs := rfl
@[simp] theorem State.storeBytes_v (a : Nat) (bs : List Byte) : (s.storeBytes a bs).v = s.v := rfl
@[simp] theorem State.storeBytes_i (a : Nat) (bs : List Byte) : (s.storeBytes a bs).i = s.i := rfl
@[simp] theorem State.storeBytes_pc (a : Nat) (bs : List Byte) : (s.storeBytes a bs).pc = s.pc := rfl
@[simp] theorem State.storeBytes_stack (a : Nat) (bs : List Byte) : (s.storeBytes a bs).stack = s.stack := rfl
@[simp] theorem State.storeBytes_dt (a : Nat) (bs : List Byte) : (s.storeBytes a bs).dt = s.dt := rfl
@[simp] theorem State.storeBytes_st (a : Nat) (bs : List Byte) : (s.storeBytes a bs).st = s.st := rfl
@[simp] theorem State.storeBytes_fb (a : Nat) (bs : List Byte) : (s.storeBytes a bs).fb = s.fb := rfl
@[simp] theorem State.storeBytes_keys (a : Nat) (bs : List Byte) : (s.storeBytes a bs).keys = s.keys := rfl
@[simp] theorem State.storeBytes_paused (a : Nat) (bs : List Byte) : (s.storeBytes a bs).paused = s.paused := rfl
@[simp] theorem State.storeBytes_waiting (a : Nat) (bs : List Byte) : (s.storeBytes a bs).waiting = s.waiting := rfl
@[simp] theorem State.storeBytes_status (a : Nat) (bs : List Byte) : (s.storeBytes a bs).status = s.status := rfl
@[simp] theorem State.storeBytes_log (a : Nat) (bs : List Byte) : (s.storeBytes a bs).log = s.log := rfl
@[simp] theorem State.storeBytes_phase (a : Nat) (bs : List Byte) : (s.storeBytes a bs).phase = s.phase := rfl
@[simp] theorem State.storeBytes_out (a : Nat) (bs : List Byte) : (s.storeBytes a bs).out = s.out := rfl
@[simp] theorem State.storeBytes_calls (a : Nat) (bs : List Byte) : (s.storeBytes a bs).calls = s.calls := rfl
@[simp] theorem State.storeBytes_draws (a : Nat) (bs : List Byte) : (s.storeBytes a bs).draws = s.draws := rfl
@[simp] theorem State.storeBytes_frames (a : Nat) (bs : List Byte) : (s.storeBytes a bs).frames = s.frames := rfl

/-! ### raiseFatal -/

@[simp] theorem State.raiseFatal_cfg (r : FatalReason) : (s.raiseFatal r).cfg = s.cfg := rfl
@[simp] theorem State.raiseFatal_rom (r : FatalReason) : (s.raiseFatal r).rom = s.rom := rfl
@[simp] theorem State.raiseFatal_mem (r : FatalReason) : (s.raiseFatal r).mem = s.mem := rfl
@[simp] theorem State.raiseFatal_v (r : FatalReason) : (s.raiseFatal r).v = s.v := rfl
@[simp] theorem State.raiseFatal_i (r : FatalReason) : (s.raiseFatal r).i = s.i := rfl
@[simp] theorem State.raiseFatal_pc (r : FatalReason) : (s.raiseFatal r).pc = s.pc := rfl
@[simp] theorem State.raiseFatal_stack (r : FatalReason) : (s.raiseFatal r).stack = s.stack := rfl
@[simp] theorem State.raiseFatal_dt (r : FatalReason) : (s.raiseFatal r).dt = s.dt := rfl
@[simp] theorem State.raiseFatal_st (r : FatalReason) : (s.raiseFatal r).st = s.st := rfl
@[simp] theorem State.raiseFatal_fb (r : FatalReason) : (s.raiseFatal r).fb = s.fb := rfl
@[simp] theorem State.raiseFatal_keys (r : FatalReason) : (s.raiseFatal r).keys = s.keys := rfl
@[simp] theorem State.raiseFatal_paused (r : FatalReason) : (s.raiseFatal r).paused = s.paused := rfl
@[simp] theorem State.raiseFatal_waiting (r : FatalReason) : (s.raiseFatal r).waiting = s.waiting := rfl
@[simp] theorem State.raiseFatal_status (r : FatalReason) : (s.raiseFatal r).status = .fatal r := rfl
@[simp] theorem State.raiseFatal_log (r : FatalReason) : (s.raiseFatal r).log = s.log := rfl
@[simp] theorem State.raiseFatal_phase (r : FatalReason) : (s.raiseFatal r).phase = .between := rfl
@[simp] theorem State.raiseFatal_out (r : FatalReason) : (s.raiseFatal r).out = s.out := rfl
@[simp] theorem State.raiseFatal_calls (r : FatalReason) : (s.raiseFatal r).calls = s.calls := rfl
@[simp] theorem State.raiseFatal_draws (r : FatalReason) : (s.raiseFatal r).draws = s.draws := rfl
@[simp] theorem State.raiseFatal_frames (r : FatalReason) : (s.raiseFatal r).frames = s.frames := rfl

/-! ### loadRegsFrom -/

@[simp] theorem State.loadRegsFrom_cfg (a : Nat) (x : Reg) : (s.loadRegsFrom a x).cfg = s.cfg := rfl
@[simp] theorem State.loadRegsFrom_rom (a : Nat) (x : Reg) : (s.loadRegsFrom a x).rom = s.rom := rfl
@[simp] theorem State.loadRegsFrom_mem (a : Nat) (x : Reg) : (s.loadRegsFrom a x).mem = s.mem := rfl
@[simp] theorem State.loadRegsFrom_i (a : Nat) (x : Reg) : (s.loadRegsFrom a x).i = s.i := rfl
@[simp] theorem State.loadRegsFrom_pc (a : Nat) (x : Reg) : (s.loadRegsFrom a x).pc = s.pc := rfl
@[simp] theorem State.loadRegsFrom_stack (a : Nat) (x : Reg) : (s.loadRegsFrom a x).stack = s.stack := rfl
@[simp] theorem State.loadRegsFrom_dt (a : Nat) (x : Reg) : (s.loadRegsFrom a x).dt = s.dt := rfl
@[simp] theorem State.loadRegsFrom_st (a : Nat) (x : Reg) : (s.loadRegsFrom a x).st = s.st := rfl
@[simp] theorem State.loadRegsFrom_fb (a : Nat) (x : Reg) : (s.loadRegsFrom a x).fb = s.fb := rfl
@[simp] theorem State.loadRegsFrom_keys (a : Nat) (x : Reg) : (s.loadRegsFrom a x).keys = s.keys := rfl
@[simp] theorem State.loadRegsFrom_paused (a : Nat) (x : Reg) : (s.loadRegsFrom a x).paused = s.paused := rfl
@[simp] theorem State.loadRegsFrom_waiting (a : Nat) (x : Reg) : (s.loadRegsFrom a x).waiting = s.waiting := rfl
@[simp] theorem State.loadRegsFrom_status (a : Nat) (x : Reg) : (s.loadRegsFrom a x).status = s.status := rfl
@[simp] theorem State.loadRegsFrom_log (a : Nat) (x : Reg) : (s.loadRegsFrom a x).log = s.log := rfl
@[simp] theorem State.loadRegsFrom_phase (a : Nat) (x : Reg) : (s.loadRegsFrom a x).phase = s.phase := rfl
@[simp] theorem State.loadRegsFrom_out (a : Nat) (x : Reg) : (s.loadRegsFrom a x).out = s.out := rfl
@[simp] theorem State.loadRegsFrom_calls (a : Nat) (x : Reg) : (s.loadRegsFrom a x).calls = s.calls := rfl
@[simp] theorem State.loadRegsFrom_draws (a : Nat) (x : Reg) : (s.loadRegsFrom a x).draws = s.draws := rfl
@[simp] theorem State.loadRegsFrom_frames (a : Nat) (x : Reg) : (s.loadRegsFrom a x).frames = s.frames := rfl

/-! ### drawRandom -/

@[simp] theorem State.drawRandom_cfg : (s.drawRandom.2).cfg = s.cfg := rfl
@[simp] theorem State.drawRandom_rom : (s.drawRandom.2).rom = s.rom := rfl
@[simp] theorem State.drawRandom_mem : (s.drawRandom.2).mem = s.mem := rfl
@[simp] theorem State.drawRandom_v : (s.drawRandom.2).v = s.v := rfl
@[simp] theorem State.drawRandom_i : (s.drawRandom.2).i = s.i := rfl
@[simp] theorem State.drawRandom_pc : (s.drawRandom.2).pc = s.pc := rfl
@[simp] theorem State.drawRandom_stack : (s.drawRandom.2).stack = s.stack := rfl
@[simp] theorem State.drawRandom_dt : (s.drawRandom.2).dt = s.dt := rfl
@[simp] theorem State.drawRandom_st : (s.drawRandom.2).st = s.st := rfl
@[simp] theorem State.drawRandom_fb : (s.drawRandom.2).fb = s.fb := rfl
@[simp] theorem State.drawRandom_keys : (s.drawRandom.2).keys = s.keys := rfl
@[simp] theorem State.drawRandom_paused : (s.drawRandom.2).paused = s.paused := rfl
@[simp] theorem State.drawRandom_waiting : (s.drawRandom.2).waiting = s.waiting := rfl
@[simp] theorem State.drawRandom_status : (s.drawRandom.2).status = s.status := rfl
@[simp] theorem State.drawRandom_log : (s.drawRandom.2).log = s.log := rfl
@[simp] theorem State.drawRandom_phase : (s.drawRandom.2).phase = s.phase := rfl
@[simp] theorem State.drawRandom_out : (s.drawRandom.2).out = s.out := rfl
@[simp] theorem State.drawRandom_calls : (s.drawRandom.2).calls = s.calls := rfl
@[simp] theorem State.drawRandom_draws : (s.drawRandom.2).draws = s.draws + 1 := rfl
@[simp] theorem State.drawRandom_frames : (s.drawRandom.2).frames = s.frames := rfl

/-! ### Conditional updates -/

@[simp] theorem State.skipIf_cfg (b : Bool) : (s.skipIf b).cfg = s.cfg := by cases b <;> rfl
@[simp] theorem State.skipIf_rom (b : Bool) : (s.skipIf b).rom = s.rom := by cases b <;> rfl
@[simp] theorem State.skipIf_mem (b : Bool) : (s.skipIf b).mem = s.mem := by cases b <;> rfl
@[simp] theorem State.skipIf_v (b : Bool) : (s.skipIf b).v = s.v := by cases b <;> rfl
@[simp] theorem State.skipIf_i (b : Bool) : (s.skipIf b).i = s.i := by cases b <;> rfl
@[simp] theorem State.skipIf_pc (b : Bool) : (s.skipIf b).pc = if b then s.pc + 2 else s.pc := by
  cases b <;> rfl
@[simp] theorem State.skipIf_stack (b : Bool) : (s.skipIf b).stack = s.stack := by cases b <;> rfl
@[simp] theorem State.skipIf_dt (b : Bool) : (s.skipIf b).dt = s.dt := by cases b <;> rfl
@[simp] theorem State.skipIf_st (b : Bool) : (s.skipIf b).st = s.st := by cases b <;> rfl
@[simp] theorem State.skipIf_fb (b : Bool) : (s.skipIf b).fb = s.fb := by cases b <;> rfl
@[simp] theorem State.skipIf_keys (b : Bool) : (s.skipIf b).keys = s.keys := by cases b <;> rfl
@[simp] theorem State.skipIf_paused (b : Bool) : (s.skipIf b).paused = s.paused := by cases b <;> rfl
@[simp] theorem State.skipIf_waiting (b : Bool) : (s.skipIf b).waiting = s.waiting := by cases b <;> rfl
@[simp] theorem State.skipIf_status (b : Bool) : (s.skipIf b).status = s.status := by cases b <;> rfl
@[simp] theorem State.skipIf_log (b : Bool) : (s.skipIf b).log = s.log := by cases b <;> rfl
@[simp] theorem State.skipIf_phase (b : Bool) : (s.skipIf b).phase = s.phase := by cases b <;> rfl
@[simp] theorem State.skipIf_out (b : Bool) : (s.skipIf b).out = s.out := by cases b <;> rfl
@[simp] theorem State.skipIf_calls (b : Bool) : (s.skipIf b).calls = s.calls := by cases b <;> rfl
@[simp] theorem State.skipIf_draws (b : Bool) : (s.skipIf b).draws = s.draws := by cases b <;> rfl
@[simp] theorem State.skipIf_frames (b : Bool) : (s.skipIf b).frames = s.frames := by cases b <;> rfl

@[simp] theorem State.flagThenResult_cfg (x y : Reg) (flag result : Byte → Byte → Byte) :
    (s.flagThenResult x y flag result).cfg = s.cfg := by
  unfold State.flagThenResult; cases s.cfg.flagOperandOrder <;> rfl
@[simp] theorem State.flagThenResult_rom (x y : Reg) (flag result : Byte → Byte → Byte) :
    (s.flagThenResult x y flag result).rom = s.rom := by
  unfold State.flagThenResult; cases s.cfg.flagOperandOrder <;> rfl
@[simp] theorem State.flagThenResult_mem (x y : Reg) (flag result : Byte → Byte → Byte) :
    (s.flagThenResult x y flag result).mem = s.mem := by
  unfold State.flagThenResult; cases s.cfg.flagOperandOrder <;> rfl
@[simp] theorem State.flagThenResult_i (x y : Reg) (flag result : Byte → Byte → Byte) :
    (s.flagThenResult x y flag result).i = s.i := by
  unfold State.flagThenResult; cases s.cfg.flagOperandOrder <;> rfl
@[simp] theorem State.flagThenResult_pc (x y : Reg) (flag result : Byte → Byte → Byte) :
    (s.flagThenResult x y flag result).pc = s.pc := by
  unfold State.flagThenResult; cases s.cfg.flagOperandOrder <;> rfl
@[simp] theorem State.flagThenResult_stack (x y : Reg) (flag result : Byte → Byte → Byte) :
    (s.flagThenResult x y flag result).stack = s.stack := by
  unfold State.flagThenResult; cases s.cfg.flagOperandOrder <;> rfl
@[simp] theorem State.flagThenResult_dt (x y : Reg) (flag result : Byte → Byte → Byte) :
    (s.flagThenResult x y flag result).dt = s.dt := by
  unfold State.flagThenResult; cases s.cfg.flagOperandOrder <;> rfl
@[simp] theorem State.flagThenResult_st (x y : Reg) (flag result : Byte → Byte → Byte) :
    (s.flagThenResult x y flag result).st = s.st := by
  unfold State.flagThenResult; cases s.cfg.flagOperandOrder <;> rfl
@[simp] theorem State.flagThenResult_fb (x y : Reg) (flag result : Byte → Byte → Byte) :
    (s.flagThenResult x y flag result).fb = s.fb := by
  unfold State.flagThenResult; cases s.cfg.flagOperandOrder <;> rfl
@[simp] theorem State.flagThenResult_keys (x y : Reg) (flag result : Byte → Byte → Byte) :
    (s.flagThenResult x y flag result).keys = s.keys := by
  unfold State.flagThenResult; cases s.cfg.flagOperandOrder <;> rfl
@[simp] theorem State.flagThenResult_paused (x y : Reg) (flag result : Byte → Byte → Byte) :
    (s.flagThenResult x y flag result).paused = s.paused := by
  unfold State.flagThenResult; cases s.cfg.flagOperandOrder <;> rfl
@[simp] theorem State.flagThenResult_waiting (x y : Reg) (flag result : Byte → Byte → Byte) :
    (s.flagThenResult x y flag result).waiting = s.waiting := by
  unfold State.flagThenResult; cases s.cfg.flagOperandOrder <;> rfl
@[simp] theorem State.flagThenResult_status (x y : Reg) (flag result : Byte → Byte → Byte) :
    (s.flagThenResult x y flag result).status = s.status := by
  unfold State.flagThenResult; cases s.cfg.flagOperandOrder <;> rfl
@[simp] theorem State.flagThenResult_log (x y : Reg) (flag result : Byte → Byte → Byte) :
    (s.flagThenResult x y flag result).log = s.log := by
  unfold State.flagThenResult; cases s.cfg.flagOperandOrder <;> rfl
@[simp] theorem State.flagThenResult_phase (x y : Reg) (flag result : Byte → Byte → Byte) :
    (s.flagThenResult x y flag result).phase = s.phase := by
  unfold State.flagThenResult; cases s.cfg.flagOperandOrder <;> rfl
@[simp] theorem State.flagThenResult_out (x y : Reg) (flag result : Byte → Byte → Byte) :
    (s.flagThenResult x y flag result).out = s.out := by
  unfold State.flagThenResult; cases s.cfg.flagOperandOrder <;> rfl
@[simp] theorem State.flagThenResult_calls (x y : Reg) (flag result : Byte → Byte → Byte) :
    (s.flagThenResult x y flag result).calls = s.calls := by
  unfold State.flagThenResult; cases s.cfg.flagOperandOrder <;> rfl
@[simp] theorem State.flagThenResult_draws (x y : Reg) (flag result : Byte → Byte → Byte) :
    (s.flagThenResult x y flag result).draws = s.draws := by
  unfold State.flagThenResult; cases s.cfg.flagOperandOrder <;> rfl
@[simp] theorem State.flagThenResult_frames (x y : Reg) (flag result : Byte → Byte → Byte) :
    (s.flagThenResult x y flag result).frames = s.frames := by
  unfold State.flagThenResult; cases s.cfg.flagOperandOrder <;> rfl

/-! ### The registers through each update -/

/-- A register after a write: the written one holds the value, the others what they held (R16, R18). -/
@[simp] theorem State.reg_setReg (x y : Reg) (b : Byte) : (s.setReg x b).reg y = if y = x then b else s.reg y := by
  unfold State.reg State.setReg
  by_cases h : y = x
  · subst h; simp
  · have : x.toNat ≠ y.toNat := fun e => h (BitVec.eq_of_toNat_eq e.symm)
    simp [this, h]

@[simp] theorem State.reg_setIndex (n : Nat) (y : Reg) : (s.setIndex n).reg y = s.reg y := rfl
@[simp] theorem State.reg_setPc (a : Word) (y : Reg) : (s.setPc a).reg y = s.reg y := rfl
@[simp] theorem State.reg_advance (y : Reg) : (s.advance).reg y = s.reg y := rfl
@[simp] theorem State.reg_setDt (b : Byte) (y : Reg) : (s.setDt b).reg y = s.reg y := rfl
@[simp] theorem State.reg_setSt (b : Byte) (y : Reg) : (s.setSt b).reg y = s.reg y := rfl
@[simp] theorem State.reg_setFb (f : Framebuffer) (y : Reg) : (s.setFb f).reg y = s.reg y := rfl
@[simp] theorem State.reg_setStack (l : List Word) (y : Reg) : (s.setStack l).reg y = s.reg y := rfl
@[simp] theorem State.reg_awaitKey (x : Reg) (y : Reg) : (s.awaitKey x).reg y = s.reg y := rfl
@[simp] theorem State.reg_logInvalid (w : Word) (y : Reg) : (s.logInvalid w).reg y = s.reg y := rfl
@[simp] theorem State.reg_storeBytes (a : Nat) (bs : List Byte) (y : Reg) : (s.storeBytes a bs).reg y = s.reg y := rfl
@[simp] theorem State.reg_raiseFatal (r : FatalReason) (y : Reg) : (s.raiseFatal r).reg y = s.reg y := rfl
@[simp] theorem State.reg_drawRandom (y : Reg) : (s.drawRandom.2).reg y = s.reg y := rfl
@[simp] theorem State.reg_skipIf (b : Bool) (y : Reg) : (s.skipIf b).reg y = s.reg y := by cases b <;> rfl

/-- The register block of Fx65: V0 to Vx come from memory, the others stay (R107). -/
@[simp] theorem State.reg_loadRegsFrom (a : Nat) (x y : Reg) :
    (s.loadRegsFrom a x).reg y = if y.toNat ≤ x.toNat then s.byteAt (a + y.toNat) else s.reg y := by
  simp [State.reg, State.loadRegsFrom]

/-- A flag-setting operation, latched: the operands are read before any write (R98). -/
theorem State.reg_flagThenResult_latched (h : s.cfg.flagOperandOrder = .latched) (x y r : Reg)
    (flag result : Byte → Byte → Byte) :
    (s.flagThenResult x y flag result).reg r =
      if r = x then result (s.reg x) (s.reg y) else if r = vf then flag (s.reg x) (s.reg y) else s.reg r := by
  simp [State.flagThenResult, h]

/-- A flag-setting operation, sequential: the store reads its operands after VF was written (R98). -/
theorem State.reg_flagThenResult_sequential (h : s.cfg.flagOperandOrder = .sequential) (x y r : Reg)
    (flag result : Byte → Byte → Byte) :
    (s.flagThenResult x y flag result).reg r =
      if r = x then
        result (if x = vf then flag (s.reg x) (s.reg y) else s.reg x)
          (if y = vf then flag (s.reg x) (s.reg y) else s.reg y)
      else if r = vf then flag (s.reg x) (s.reg y) else s.reg r := by
  simp [State.flagThenResult, h]

/-- Under either order a flag-setting operation writes `V[x]` and VF only (R98). -/
theorem State.reg_flagThenResult_other (x y r : Reg) (flag result : Byte → Byte → Byte) (hx : r ≠ x) (hf : r ≠ vf) :
    (s.flagThenResult x y flag result).reg r = s.reg r := by
  change r ≠ 15#4 at hf
  cases h : s.cfg.flagOperandOrder
  · simp [s.reg_flagThenResult_latched h, hx, hf]
  · simp [s.reg_flagThenResult_sequential h, hx, hf]

/-! ### The byte of memory through each update that stores nothing -/

@[simp] theorem State.byteAt_setReg (x : Reg) (b : Byte) (a' : Nat) : (s.setReg x b).byteAt a' = s.byteAt a' := rfl
@[simp] theorem State.byteAt_setIndex (n : Nat) (a' : Nat) : (s.setIndex n).byteAt a' = s.byteAt a' := rfl
@[simp] theorem State.byteAt_setPc (a : Word) (a' : Nat) : (s.setPc a).byteAt a' = s.byteAt a' := rfl
@[simp] theorem State.byteAt_advance (a' : Nat) : (s.advance).byteAt a' = s.byteAt a' := rfl
@[simp] theorem State.byteAt_setDt (b : Byte) (a' : Nat) : (s.setDt b).byteAt a' = s.byteAt a' := rfl
@[simp] theorem State.byteAt_setSt (b : Byte) (a' : Nat) : (s.setSt b).byteAt a' = s.byteAt a' := rfl
@[simp] theorem State.byteAt_setFb (f : Framebuffer) (a' : Nat) : (s.setFb f).byteAt a' = s.byteAt a' := rfl
@[simp] theorem State.byteAt_setStack (l : List Word) (a' : Nat) : (s.setStack l).byteAt a' = s.byteAt a' := rfl
@[simp] theorem State.byteAt_awaitKey (x : Reg) (a' : Nat) : (s.awaitKey x).byteAt a' = s.byteAt a' := rfl
@[simp] theorem State.byteAt_logInvalid (w : Word) (a' : Nat) : (s.logInvalid w).byteAt a' = s.byteAt a' := rfl
@[simp] theorem State.byteAt_raiseFatal (r : FatalReason) (a' : Nat) : (s.raiseFatal r).byteAt a' = s.byteAt a' := rfl
@[simp] theorem State.byteAt_loadRegsFrom (a : Nat) (x : Reg) (a' : Nat) : (s.loadRegsFrom a x).byteAt a' = s.byteAt a' := rfl
@[simp] theorem State.byteAt_drawRandom (a' : Nat) : (s.drawRandom.2).byteAt a' = s.byteAt a' := rfl
@[simp] theorem State.byteAt_skipIf (b : Bool) (a : Nat) : (s.skipIf b).byteAt a = s.byteAt a := by cases b <;> rfl
@[simp] theorem State.byteAt_flagThenResult (x y : Reg) (flag result : Byte → Byte → Byte) (a : Nat) :
    (s.flagThenResult x y flag result).byteAt a = s.byteAt a := by
  simp [State.byteAt]

/-- Two states with the same registers as seen by number have the same register file. -/
theorem v_eq_of_reg {s t : State} (h : ∀ r, s.reg r = t.reg r) : s.v = t.v := by
  apply Vector.ext
  intro k hk
  have := h (BitVec.ofNat 4 k)
  simpa [State.reg, Nat.mod_eq_of_lt hk] using this

end Sys2Proof.Machine
end

