-- ==== Sys2Proof/Laws/Operands.lean ====
section
/-! SUPPORT. What each operand form and each shared operation of the memory and key instructions gives
(43_index_memory.md R105 to R108, 44_timers_keys.md R113). -/

namespace Sys2Proof.Machine

/-- The range check, as a bound on the block's end (R108). -/
theorem blockInRange_iff (a : Word) (len : Nat) :
    blockInRange a len = true ↔ len = 0 ∨ a.toNat + len ≤ 4096 := by
  simp only [blockInRange, memSize, Bool.or_eq_true, decide_eq_true_eq]
  constructor <;> rintro (h | h) <;> omega

/-! ### Bytes stored and kept -/

theorem State.byteAt_storeBytes_other (s : State) (bs : List Byte) {a b : Nat} (h : b < a ∨ a + bs.length ≤ b) :
    (s.storeBytes a bs).byteAt b = s.byteAt b := by
  simpa [State.byteAt] using Memory.read_writeBlock_other s.cfg s.mem bs a h

theorem State.byteAt_storeBytes_inside {s : State} (hw : s.mem.wf s.cfg = true) (bs : List Byte) (a k : Nat)
    (hk : k < bs.length) (h : a + bs.length ≤ 4096) : (s.storeBytes a bs).byteAt (a + k) = bs[k] := by
  simpa [State.byteAt] using Memory.read_writeBlock_inside s.cfg hw bs a k hk h

/-- The reset state's memory is in canonical form. -/
theorem State.reset_mem_wf : State.reset.mem.wf State.reset.cfg = true := rfl

theorem State.storeBytes_wf {s : State} (hw : s.mem.wf s.cfg = true) (bs : List Byte) (a : Nat)
    (h : a + bs.length ≤ 4096) : (s.storeBytes a bs).mem.wf s.cfg = true := by
  simpa using Memory.writeBlock_wf s.cfg hw bs a h

/-! ### The lists stored -/

@[simp] theorem length_decimalDigits (b : Byte) : (decimalDigits b).length = 3 := rfl

@[simp] theorem State.length_regsUpTo (s : State) (x : Reg) : (s.regsUpTo x).length = x.toNat + 1 := by
  have := x.isLt
  simp [State.regsUpTo]; omega

/-- The `k`-th byte of the register block is `V[k]` (R106). -/
theorem State.getElem_regsUpTo (s : State) (x : Reg) (k : Reg) (h : k.toNat < (s.regsUpTo x).length) :
    (s.regsUpTo x)[k.toNat] = s.reg k := by
  simp [State.regsUpTo, State.reg]

/-! ### Storing at I -/

/-- A store at I of a block within range stores it, and of one beyond the end raises the fatal condition (R108). -/
theorem State.storeAtIndex_cases (s : State) (bs : List Byte) :
    ((bs.length = 0 ∨ s.i.toNat + bs.length ≤ 4096) ∧ s.storeAtIndex bs = s.storeBytes s.i.toNat bs) ∨
    (¬ (bs.length = 0 ∨ s.i.toNat + bs.length ≤ 4096) ∧
      s.storeAtIndex bs = s.raiseFatal (.memWriteOutOfRange 4096)) := by
  unfold State.storeAtIndex
  by_cases h : blockInRange s.i bs.length = true
  · exact .inl ⟨(blockInRange_iff ..).1 h, if_pos h⟩
  · exact .inr ⟨fun e => h ((blockInRange_iff ..).2 e), if_neg h⟩

/-! ### Key skips -/

/-- A key index is the low nibble, unless the policy is fatal and the value exceeds 15 (R113). -/
theorem keyIndex_cases (c : Config) (b : Byte) :
    (c.keyIndexPolicy = .fatal ∧ 15 < b.toNat ∧ keyIndex c b = .error (.keyIndexOutOfRange b)) ∨
    (¬ (c.keyIndexPolicy = .fatal ∧ 15 < b.toNat) ∧ keyIndex c b = .ok (b.setWidth 4)) := by
  unfold keyIndex
  cases c.keyIndexPolicy <;> by_cases h : 15 < b.toNat <;> simp [h]

/-- A key skip raises the fatal condition or moves the pc (R109, R110, R113). -/
theorem State.keySkip_cases (s : State) (x : Reg) (down : Bool) :
    (s.cfg.keyIndexPolicy = .fatal ∧ 15 < (s.reg x).toNat ∧
      s.keySkip x down = s.raiseFatal (.keyIndexOutOfRange (s.reg x))) ∨
    (¬ (s.cfg.keyIndexPolicy = .fatal ∧ 15 < (s.reg x).toNat) ∧
      s.keySkip x down = s.skipIf (s.keyDown ((s.reg x).setWidth 4) == down)) := by
  unfold State.keySkip
  obtain ⟨h1, h2, h3⟩ | ⟨h1, h2⟩ := keyIndex_cases s.cfg (s.reg x)
  · rw [h3]; exact .inl ⟨h1, h2, rfl⟩
  · rw [h2]; exact .inr ⟨h1, rfl⟩

end Sys2Proof.Machine
end

