-- ==== Sys2Proof/Laws/Exec.lean ====
section
/-! SUPPORT. What each instruction that can raise a fatal condition does, said once: it completes with its effect, or
raises the condition and does nothing else (60_exceptions.md R117, R119). Every other instruction is its update of the
state by unfolding. -/

namespace Sys2Proof.Machine

/-- A flag-setting operation writes registers alone (R98). -/
theorem State.flagThenResult_eq (s : State) (x y : Reg) (flag result : Byte → Byte → Byte) :
    s.flagThenResult x y flag result = { s with v := (s.flagThenResult x y flag result).v } := by
  unfold State.flagThenResult
  cases s.cfg.flagOperandOrder <;> rfl

/-- DRW draws and writes VF, or its rows do not lie in memory (R72, R108). -/
theorem execDrw_cases (x y : Reg) (n : Nibble) (s : State) :
    ((n.toNat = 0 ∨ s.i.toNat + n.toNat ≤ 4096) ∧
      execDrw x y n s =
        .next ((s.setFb (s.drawSprite (s.reg x).toNat (s.reg y).toNat n.toNat).1).setReg vf
          (flagByte (s.drawSprite (s.reg x).toNat (s.reg y).toNat n.toNat).2))) ∨
    (0 < n.toNat ∧ 4096 < s.i.toNat + n.toNat ∧
      execDrw x y n s = .next (s.raiseFatal (.memReadOutOfRange 4096))) := by
  unfold execDrw
  by_cases h : blockInRange s.i n.toNat = true
  · exact .inl ⟨(blockInRange_iff ..).1 h, by rw [if_pos h]⟩
  · have := mt (blockInRange_iff ..).2 h
    exact .inr ⟨by omega, by omega, by rw [if_neg h]⟩

/-- LD Vx, [I] loads the block, or it does not lie in memory (R107, R108). -/
theorem execLoadRegs_cases (x : Reg) (s : State) :
    (s.i.toNat + x.toNat < 4096 ∧ execLoadRegs x s = .next (s.loadRegsFrom s.i.toNat x)) ∨
    (4096 ≤ s.i.toNat + x.toNat ∧ execLoadRegs x s = .next (s.raiseFatal (.memReadOutOfRange 4096))) := by
  unfold execLoadRegs
  by_cases h : blockInRange s.i (x.toNat + 1) = true
  · have := (blockInRange_iff ..).1 h
    exact .inl ⟨by omega, if_pos h⟩
  · have := mt (blockInRange_iff ..).2 h
    exact .inr ⟨by omega, if_neg h⟩

/-- LD B, Vx stores the digits, or they do not fit in memory (R105, R108). -/
theorem execLdBcd_cases (x : Reg) (s : State) :
    (s.i.toNat + 2 < 4096 ∧ execLdBcd x s = .next (s.storeBytes s.i.toNat (decimalDigits (s.reg x)))) ∨
    (4096 ≤ s.i.toNat + 2 ∧ execLdBcd x s = .next (s.raiseFatal (.memWriteOutOfRange 4096))) := by
  unfold execLdBcd
  obtain ⟨h, e⟩ | ⟨h, e⟩ := s.storeAtIndex_cases (decimalDigits (s.reg x)) <;>
    rw [length_decimalDigits] at h
  · exact .inl ⟨by omega, by rw [e]⟩
  · exact .inr ⟨by omega, by rw [e]⟩

/-- LD [I], Vx stores the registers, or they do not fit in memory (R106, R108). -/
theorem execStoreRegs_cases (x : Reg) (s : State) :
    (s.i.toNat + x.toNat < 4096 ∧ execStoreRegs x s = .next (s.storeBytes s.i.toNat (s.regsUpTo x))) ∨
    (4096 ≤ s.i.toNat + x.toNat ∧ execStoreRegs x s = .next (s.raiseFatal (.memWriteOutOfRange 4096))) := by
  unfold execStoreRegs
  obtain ⟨h, e⟩ | ⟨h, e⟩ := s.storeAtIndex_cases (s.regsUpTo x) <;> rw [State.length_regsUpTo] at h
  · exact .inl ⟨by omega, by rw [e]⟩
  · exact .inr ⟨by omega, by rw [e]⟩

/-- CALL pushes and jumps, or the stack is full (R79). -/
theorem execCall_cases (nnn : Imm12) (s : State) :
    (s.stack.length < s.cfg.stackDepth ∧
      execCall nnn s = .next ((s.setStack (s.stack ++ [s.pc])).setPc (immAddr nnn))) ∨
    (s.cfg.stackDepth ≤ s.stack.length ∧ execCall nnn s = .next (s.raiseFatal .stackOverflow)) := by
  unfold execCall
  by_cases h : s.cfg.stackDepth ≤ s.stack.length
  · exact .inr ⟨h, if_pos h⟩
  · exact .inl ⟨by omega, if_neg h⟩

/-- RET pops, or the stack is empty (R77). -/
theorem execRet_cases (s : State) :
    (∃ l a, s.stack = l ++ [a] ∧ execRet s = .next ((s.setStack l).setPc a)) ∨
    (s.stack = [] ∧ execRet s = .next (s.raiseFatal .stackUnderflow)) := by
  unfold execRet
  obtain h | ⟨l, a, h⟩ := List.eq_nil_or_concat s.stack
  · exact .inr ⟨h, by simp [h]⟩
  · exact .inl ⟨l, a, by simpa using h, by simp [h]⟩

end Sys2Proof.Machine
end

