-- ==== Sys2Proof/Laws/Framebuffer.lean ====
section
/-! SUPPORT. The laws of the framebuffer: a cell after a write, after a toggle (R73), after a row and after a sprite
(R72, R75), and the collision flag (R76). -/

namespace Sys2Proof.Machine

/-- Coordinates are taken modulo the dimensions (R33, R74). -/
theorem cellAt_mod (f : Framebuffer) (x y : Nat) : cellAt f (x % 64) (y % 32) = cellAt f x y := by
  simp [cellAt]

@[simp] theorem cellAt_clearedFb (x y : Nat) : cellAt clearedFb x y = false := by
  simp [cellAt, clearedFb]

/-- A cell after another was written: the written one holds the value (R33). -/
theorem cellAt_setCell (f : Framebuffer) (x y : Nat) (b : Bool) (x' y' : Nat) :
    cellAt (setCell f x y b) x' y' = if x % 64 = x' % 64 ∧ y % 32 = y' % 32 then b else cellAt f x' y' := by
  unfold cellAt setCell
  by_cases hx : x % 64 = x' % 64
  · by_cases hy : y % 32 = y' % 32 <;> simp [hx, hy]
  · simp [hx]

/-- Two framebuffers with the same cells are equal. -/
theorem fb_ext {f g : Framebuffer} (h : ∀ x y, x < 64 → y < 32 → cellAt f x y = cellAt g x y) : f = g := by
  apply Vector.ext
  intro x hx
  apply Vector.ext
  intro y hy
  simpa [cellAt, Nat.mod_eq_of_lt hx, Nat.mod_eq_of_lt hy] using h x y hx hy

/-- A cell after `set_pixel`: the wrapped one is toggled (R73). -/
theorem cellAt_setPixel (f : Framebuffer) (px py x y : Nat) :
    cellAt (setPixel f px py).1 x y =
      (cellAt f x y ^^ decide (px % 64 = x % 64 ∧ py % 32 = y % 32)) := by
  rw [setPixel, cellAt_setCell]
  by_cases h : px % 64 = x % 64 ∧ py % 32 = y % 32
  · have : cellAt f px py = cellAt f x y := by rw [← cellAt_mod f px py, ← cellAt_mod f x y, h.1, h.2]
    simp [h, this]
  · simp [h]

/-! ### One sprite row -/

/-- The columns listed of a sprite row put a 1 bit on the cell. -/
def ColsCover (row : Byte) (px py : Nat) (cs : List Nat) (x y : Nat) : Prop :=
  ∃ c ∈ cs, spriteBit row c = true ∧ (px + c) % 64 = x % 64 ∧ py % 32 = y % 32

theorem ColsCover_cons (row : Byte) (px py c : Nat) (cs : List Nat) (x y : Nat) :
    ColsCover row px py (c :: cs) x y ↔
      (spriteBit row c = true ∧ (px + c) % 64 = x % 64 ∧ py % 32 = y % 32) ∨ ColsCover row px py cs x y := by
  simp [ColsCover]

/-- Distinct columns below 64 never fall on one cell. -/
def ColsApart (cs : List Nat) : Prop := cs.Pairwise (· ≠ ·) ∧ ∀ c ∈ cs, c < 8

theorem ColsApart_tail {c : Nat} {cs : List Nat} (h : ColsApart (c :: cs)) : ColsApart cs :=
  ⟨(List.pairwise_cons.1 h.1).2, fun d hd => h.2 d (List.mem_cons_of_mem c hd)⟩

/-- The columns after the first do not cover the cell the first one falls on. -/
theorem not_ColsCover_head {c : Nat} {cs : List Nat} (h : ColsApart (c :: cs)) {row : Byte} {px py x y : Nat}
    (hx : (px + c) % 64 = x % 64) : ¬ ColsCover row px py cs x y := by
  rintro ⟨d, hd, -, hd', -⟩
  have h1 := (List.pairwise_cons.1 h.1).1 d hd
  have h2 := h.2 c (List.mem_cons_self ..)
  have h3 := h.2 d (List.mem_cons_of_mem c hd)
  omega

/-- A cell after some columns of a row: toggled where covered (R72, R73). -/
theorem cellAt_drawCols (row : Byte) (px py : Nat) {cs : List Nat} (h : ColsApart cs) (a : Framebuffer × Bool)
    (x y : Nat) :
    (cellAt (drawCols row px py cs a).1 x y = true ↔
      ¬ (cellAt a.1 x y = true ↔ ColsCover row px py cs x y)) := by
  induction cs generalizing a with
  | nil => simp [drawCols, ColsCover]
  | cons c cs ih =>
    have hn := @not_ColsCover_head c cs h row px py x y
    rw [drawCols, ColsCover_cons]
    by_cases hb : spriteBit row c = true
    · rw [if_pos hb, ih (ColsApart_tail h), cellAt_setPixel]
      by_cases hc : (px + c) % 64 = x % 64
      · have := hn hc
        by_cases hy : py % 32 = y % 32 <;> simp [hb, hc, hy, this]
      · simp [hc]
    · rw [if_neg hb, ih (ColsApart_tail h)]
      simp [hb]

/-- The collision flag after some columns: set before, or a covered cell was set (R76). -/
theorem collided_drawCols (row : Byte) (px py : Nat) {cs : List Nat} (h : ColsApart cs) (a : Framebuffer × Bool) :
    (drawCols row px py cs a).2 = true ↔
      a.2 = true ∨ ∃ x y, ColsCover row px py cs x y ∧ cellAt a.1 x y = true := by
  induction cs generalizing a with
  | nil => simp [drawCols, ColsCover]
  | cons c cs ih =>
    rw [drawCols]
    by_cases hb : spriteBit row c = true
    · rw [if_pos hb, ih (ColsApart_tail h)]
      simp only [Bool.or_eq_true, or_assoc]
      refine or_congr_right ?_
      constructor
      · rintro (hp | ⟨x, y, hc, hx⟩)
        · exact ⟨px + c, py, (ColsCover_cons ..).2 (.inl ⟨hb, rfl, rfl⟩), hp⟩
        · refine ⟨x, y, (ColsCover_cons ..).2 (.inr hc), ?_⟩
          rw [cellAt_setPixel] at hx
          have : ¬ (px + c) % 64 = x % 64 := fun e => not_ColsCover_head h e hc
          simpa [this] using hx
      · rintro ⟨x, y, hc, hx⟩
        obtain ⟨-, h1, h2⟩ | hc := (ColsCover_cons ..).1 hc
        · left
          rw [← cellAt_mod, ← h1, ← h2, cellAt_mod] at hx
          exact hx
        · right
          refine ⟨x, y, hc, ?_⟩
          rw [cellAt_setPixel]
          have : ¬ (px + c) % 64 = x % 64 := fun e => not_ColsCover_head h e hc
          simpa [this] using hx
    · rw [if_neg hb, ih (ColsApart_tail h)]
      simp [ColsCover_cons, hb]

/-! ### The whole sprite -/

/-- Sprite rows from `py` down put a 1 bit on the cell. -/
def RowsCover (px py : Nat) (rs : List Byte) (x y : Nat) : Prop :=
  ∃ r, ∃ h : r < rs.length, ∃ c, c < 8 ∧ spriteBit rs[r] c = true ∧ (px + c) % 64 = x % 64 ∧ (py + r) % 32 = y % 32

theorem allCols_apart : ColsApart [0, 1, 2, 3, 4, 5, 6, 7] := by
  constructor <;> decide

theorem ColsCover_all (row : Byte) (px py x y : Nat) :
    ColsCover row px py [0, 1, 2, 3, 4, 5, 6, 7] x y ↔
      ∃ c, c < 8 ∧ spriteBit row c = true ∧ (px + c) % 64 = x % 64 ∧ py % 32 = y % 32 := by
  have : ∀ c : Nat, c ∈ [0, 1, 2, 3, 4, 5, 6, 7] ↔ c < 8 := by intro c; simp; omega
  simp only [ColsCover, this]

theorem RowsCover_cons (px py : Nat) (row : Byte) (rs : List Byte) (x y : Nat) :
    RowsCover px py (row :: rs) x y ↔
      ColsCover row px py [0, 1, 2, 3, 4, 5, 6, 7] x y ∨ RowsCover px (py + 1) rs x y := by
  rw [ColsCover_all]
  constructor
  · rintro ⟨r, hr, c, hc, hb, hx, hy⟩
    cases r with
    | zero => exact .inl ⟨c, hc, hb, hx, hy⟩
    | succ r =>
      refine .inr ⟨r, by simpa using hr, c, hc, by simpa using hb, hx, ?_⟩
      rw [← hy]; congr 1; omega
  · rintro (⟨c, hc, hb, hx, hy⟩ | ⟨r, hr, c, hc, hb, hx, hy⟩)
    · exact ⟨0, by simp, c, hc, hb, hx, hy⟩
    · refine ⟨r + 1, by simpa using hr, c, hc, by simpa using hb, hx, ?_⟩
      rw [← hy]; congr 1; omega

/-- Fewer than 32 rows: the rows after the first do not cover a cell of the first row. -/
theorem not_RowsCover_head {px py : Nat} {rs : List Byte} (h : rs.length < 31) {x y : Nat} (hy : py % 32 = y % 32) :
    ¬ RowsCover px (py + 1) rs x y := by
  rintro ⟨r, hr, c, -, -, -, hy'⟩
  omega

/-- A cell after a sprite of fewer than 32 rows: toggled where covered (R72). -/
theorem cellAt_drawRows (px py : Nat) {rs : List Byte} (h : rs.length < 32) (a : Framebuffer × Bool) (x y : Nat) :
    (cellAt (drawRows px py rs a).1 x y = true ↔ ¬ (cellAt a.1 x y = true ↔ RowsCover px py rs x y)) := by
  induction rs generalizing py a with
  | nil => simp [drawRows, RowsCover]
  | cons row rs ih =>
    simp only [List.length_cons] at h
    rw [drawRows, ih (py + 1) (by omega), cellAt_drawCols row px py allCols_apart, RowsCover_cons]
    by_cases hc : ColsCover row px py [0, 1, 2, 3, 4, 5, 6, 7] x y
    · obtain ⟨c, -, -, -, hy⟩ := (ColsCover_all ..).1 hc
      have := not_RowsCover_head (px := px) (x := x) (by omega : rs.length < 31) hy
      simp [hc, this]
    · simp [hc]

/-- The collision flag after a sprite: set before, or a covered cell was set (R76). -/
theorem collided_drawRows (px py : Nat) {rs : List Byte} (h : rs.length < 32) (a : Framebuffer × Bool) :
    (drawRows px py rs a).2 = true ↔ a.2 = true ∨ ∃ x y, RowsCover px py rs x y ∧ cellAt a.1 x y = true := by
  induction rs generalizing py a with
  | nil => simp [drawRows, RowsCover]
  | cons row rs ih =>
    simp only [List.length_cons] at h
    rw [drawRows, ih (py + 1) (by omega), collided_drawCols row px py allCols_apart, or_assoc]
    refine or_congr_right ?_
    constructor
    · rintro (⟨x, y, hc, hx⟩ | ⟨x, y, hc, hx⟩)
      · exact ⟨x, y, (RowsCover_cons ..).2 (.inl hc), hx⟩
      · refine ⟨x, y, (RowsCover_cons ..).2 (.inr hc), ?_⟩
        rw [cellAt_drawCols row px py allCols_apart] at hx
        have : ¬ ColsCover row px py [0, 1, 2, 3, 4, 5, 6, 7] x y := fun e => by
          obtain ⟨c, -, -, -, hy⟩ := (ColsCover_all ..).1 e
          exact not_RowsCover_head (by omega) hy hc
        simpa [this] using hx
    · rintro ⟨x, y, hc, hx⟩
      obtain hc | hc := (RowsCover_cons ..).1 hc
      · exact .inl ⟨x, y, hc, hx⟩
      · refine .inr ⟨x, y, hc, ?_⟩
        rw [cellAt_drawCols row px py allCols_apart]
        have : ¬ ColsCover row px py [0, 1, 2, 3, 4, 5, 6, 7] x y := fun e => by
          obtain ⟨c, -, -, -, hy⟩ := (ColsCover_all ..).1 e
          exact not_RowsCover_head (by omega) hy hc
        simpa [this] using hx

/-! ### The bytes a sprite is read from -/

@[simp] theorem State.length_bytesAt (s : State) (a n : Nat) : (s.bytesAt a n).length = n := by
  induction n generalizing a with
  | zero => rfl
  | succ n ih => simp [State.bytesAt, ih]

@[simp] theorem State.getElem_bytesAt (s : State) (a n r : Nat) (h : r < (s.bytesAt a n).length) :
    (s.bytesAt a n)[r] = s.byteAt (a + r) := by
  induction n generalizing a r with
  | zero => simp at h
  | succ n ih =>
    cases r with
    | zero => rfl
    | succ r =>
      simp only [State.bytesAt, List.getElem_cons_succ]
      rw [ih]; congr 1; omega

end Sys2Proof.Machine
end

