-- ==== Sys2Proof/Laws/PerInstr.lean ====
section
/-! SUPPORT. The family OpcodeMap: the word of every well-formed instruction has the fixed bits of its row of the opcode
map (30_encoding.md R67), one lemma per constructor. -/

namespace Sys2Proof.Laws.OpcodeMap

/-- The row of the opcode map that stands for the instruction selects the word that encodes it (R67). -/
def Statement (i : Instr) : Prop := ∀ c, WellFormed c i = true → (opcodeRow c i).selects (encode i) = true

/-- A word of format NNN has its major opcode. -/
theorem of_layNNN (b : Nibble) (nnn : Imm12) :
    (layNNN b nnn &&& 0xF000).toNat = b.toNat * 4096 := by
  have := nnn.isLt
  rw [toNat_and_F000, toNat_layNNN]; omega

/-- A word of format XKK has its major opcode. -/
theorem of_layXKK (b x : Nibble) (kk : Byte) : (layXKK b x kk &&& 0xF000).toNat = b.toNat * 4096 := by
  have := x.isLt; have := kk.isLt
  rw [toNat_and_F000, toNat_layXKK]; omega

/-- A word of format XSUB has its major opcode and its sub-opcode. -/
theorem of_laySub (b x : Nibble) (kk : Byte) :
    (layXKK b x kk &&& 0xF0FF).toNat = b.toNat * 4096 + kk.toNat := by
  have := x.isLt; have := kk.isLt
  rw [toNat_and_F0FF, toNat_layXKK]; omega

/-- A word of four nibbles has its major opcode. -/
theorem of_layXYN (b x y n : Nibble) : (layXYN b x y n &&& 0xF000).toNat = b.toNat * 4096 := by
  have := x.isLt; have := y.isLt; have := n.isLt
  rw [toNat_and_F000, toNat_layXYN]; omega

/-- A word of four nibbles has its major opcode and its low nibble. -/
theorem of_layXY (b x y n : Nibble) :
    (layXYN b x y n &&& 0xF00F).toNat = b.toNat * 4096 + n.toNat := by
  have := x.isLt; have := y.isLt; have := n.isLt
  rw [toNat_and_F00F, toNat_layXYN]; omega

theorem cls : Statement (.cls) := fun _ _ => by simp [OpcodeRow.selects, opcodeRow, encode]

theorem ret : Statement (.ret) := fun _ _ => by simp [OpcodeRow.selects, opcodeRow, encode]

theorem jp (nnn : Imm12) : Statement (.jp nnn) := fun _ _ =>
  (OpcodeRow.selects_iff ..).2 (of_layNNN 0x1 nnn)

theorem call (nnn : Imm12) : Statement (.call nnn) := fun _ _ =>
  (OpcodeRow.selects_iff ..).2 (of_layNNN 0x2 nnn)

theorem seImm (x : Reg) (kk : Byte) : Statement (.seImm x kk) := fun _ _ =>
  (OpcodeRow.selects_iff ..).2 (of_layXKK 0x3 x kk)

theorem sneImm (x : Reg) (kk : Byte) : Statement (.sneImm x kk) := fun _ _ =>
  (OpcodeRow.selects_iff ..).2 (of_layXKK 0x4 x kk)

theorem seReg (x : Reg) (y : Reg) (n : Nibble) : Statement (.seReg x y n) := by
  intro c hw
  rw [OpcodeRow.selects_iff]
  have hw' : (!c.strictSkipRegDecode || n == 0) = true := hw
  cases hs : c.strictSkipRegDecode
  · simpa [opcodeRow, encode, hs] using of_layXYN 0x5 x y n
  · have hn : n = 0 := by simpa [hs] using hw'
    subst hn
    simpa [opcodeRow, encode, hs] using of_layXY 0x5 x y 0

theorem ldImm (x : Reg) (kk : Byte) : Statement (.ldImm x kk) := fun _ _ =>
  (OpcodeRow.selects_iff ..).2 (of_layXKK 0x6 x kk)

theorem addImm (x : Reg) (kk : Byte) : Statement (.addImm x kk) := fun _ _ =>
  (OpcodeRow.selects_iff ..).2 (of_layXKK 0x7 x kk)

theorem ldReg (x : Reg) (y : Reg) : Statement (.ldReg x y) := fun _ _ =>
  (OpcodeRow.selects_iff ..).2 (of_layXY 0x8 x y 0x0)

theorem orReg (x : Reg) (y : Reg) : Statement (.orReg x y) := fun _ _ =>
  (OpcodeRow.selects_iff ..).2 (of_layXY 0x8 x y 0x1)

theorem andReg (x : Reg) (y : Reg) : Statement (.andReg x y) := fun _ _ =>
  (OpcodeRow.selects_iff ..).2 (of_layXY 0x8 x y 0x2)

theorem xorReg (x : Reg) (y : Reg) : Statement (.xorReg x y) := fun _ _ =>
  (OpcodeRow.selects_iff ..).2 (of_layXY 0x8 x y 0x3)

theorem addReg (x : Reg) (y : Reg) : Statement (.addReg x y) := fun _ _ =>
  (OpcodeRow.selects_iff ..).2 (of_layXY 0x8 x y 0x4)

theorem subReg (x : Reg) (y : Reg) : Statement (.subReg x y) := fun _ _ =>
  (OpcodeRow.selects_iff ..).2 (of_layXY 0x8 x y 0x5)

theorem shr (x : Reg) (y : Reg) : Statement (.shr x y) := fun _ _ =>
  (OpcodeRow.selects_iff ..).2 (of_layXY 0x8 x y 0x6)

theorem subnReg (x : Reg) (y : Reg) : Statement (.subnReg x y) := fun _ _ =>
  (OpcodeRow.selects_iff ..).2 (of_layXY 0x8 x y 0x7)

theorem shl (x : Reg) (y : Reg) : Statement (.shl x y) := fun _ _ =>
  (OpcodeRow.selects_iff ..).2 (of_layXY 0x8 x y 0xE)

theorem sneReg (x : Reg) (y : Reg) (n : Nibble) : Statement (.sneReg x y n) := by
  intro c hw
  rw [OpcodeRow.selects_iff]
  have hw' : (!c.strictSkipRegDecode || n == 0) = true := hw
  cases hs : c.strictSkipRegDecode
  · simpa [opcodeRow, encode, hs] using of_layXYN 0x9 x y n
  · have hn : n = 0 := by simpa [hs] using hw'
    subst hn
    simpa [opcodeRow, encode, hs] using of_layXY 0x9 x y 0

theorem ldIndex (nnn : Imm12) : Statement (.ldIndex nnn) := fun _ _ =>
  (OpcodeRow.selects_iff ..).2 (of_layNNN 0xA nnn)

theorem jpV0 (nnn : Imm12) : Statement (.jpV0 nnn) := fun _ _ =>
  (OpcodeRow.selects_iff ..).2 (of_layNNN 0xB nnn)

theorem rnd (x : Reg) (kk : Byte) : Statement (.rnd x kk) := fun _ _ =>
  (OpcodeRow.selects_iff ..).2 (of_layXKK 0xC x kk)

theorem drw (x : Reg) (y : Reg) (n : Nibble) : Statement (.drw x y n) := fun _ _ =>
  (OpcodeRow.selects_iff ..).2 (of_layXYN 0xD x y n)

theorem skp (x : Reg) : Statement (.skp x) := fun _ _ =>
  (OpcodeRow.selects_iff ..).2 (of_laySub 0xE x 0x9E)

theorem sknp (x : Reg) : Statement (.sknp x) := fun _ _ =>
  (OpcodeRow.selects_iff ..).2 (of_laySub 0xE x 0xA1)

theorem ldFromDt (x : Reg) : Statement (.ldFromDt x) := fun _ _ =>
  (OpcodeRow.selects_iff ..).2 (of_laySub 0xF x 0x07)

theorem ldKey (x : Reg) : Statement (.ldKey x) := fun _ _ =>
  (OpcodeRow.selects_iff ..).2 (of_laySub 0xF x 0x0A)

theorem ldDt (x : Reg) : Statement (.ldDt x) := fun _ _ =>
  (OpcodeRow.selects_iff ..).2 (of_laySub 0xF x 0x15)

theorem ldSt (x : Reg) : Statement (.ldSt x) := fun _ _ =>
  (OpcodeRow.selects_iff ..).2 (of_laySub 0xF x 0x18)

theorem addIndex (x : Reg) : Statement (.addIndex x) := fun _ _ =>
  (OpcodeRow.selects_iff ..).2 (of_laySub 0xF x 0x1E)

theorem ldFont (x : Reg) : Statement (.ldFont x) := fun _ _ =>
  (OpcodeRow.selects_iff ..).2 (of_laySub 0xF x 0x29)

theorem ldBcd (x : Reg) : Statement (.ldBcd x) := fun _ _ =>
  (OpcodeRow.selects_iff ..).2 (of_laySub 0xF x 0x33)

theorem storeRegs (x : Reg) : Statement (.storeRegs x) := fun _ _ =>
  (OpcodeRow.selects_iff ..).2 (of_laySub 0xF x 0x55)

theorem loadRegs (x : Reg) : Statement (.loadRegs x) := fun _ _ =>
  (OpcodeRow.selects_iff ..).2 (of_laySub 0xF x 0x65)

end Sys2Proof.Laws.OpcodeMap
end

