-- ==== Sys2Proof/Laws/Step.lean ====
section
/-! SUPPORT. What one step can do, said once per phase and per shared operation (30_encoding.md R59, 60_exceptions.md
R127). -/

namespace Sys2Proof.Machine

/-! ### The fetch -/

theorem State.fetch_eq (s : State) :
    s.fetch =
      if s.pc.toNat + 1 < 4096 then some (wordOfBytes (s.byteAt s.pc.toNat) (s.byteAt (s.pc.toNat + 1)))
      else none := by
  unfold State.fetch State.memRead
  by_cases h : s.pc.toNat + 1 < 4096
  · rw [if_pos (by simp only [memSize]; omega), if_pos (by simpa [memSize] using h), if_pos h]
  · rw [if_neg (c := s.pc.toNat + 1 < memSize) (by simpa [memSize] using h), if_neg h]
    split <;> simp_all

/-! ### The run mode -/

theorem State.running_iff (s : State) :
    s.running = true ↔ s.status = .live ∧ s.paused = false ∧ s.waiting = none := by
  simp [State.running, and_assoc]

/-! ### One step, by phase -/

theorem step_stopped {s : State} (h : s.phase = .stopped) : step s = .fault .hostQuit := by simp [step, h]

theorem step_between {s : State} (h : s.phase = .between) : step s = s.serveHost := by simp [step, h]

theorem step_endTick {s : State} (h : s.phase = .slots 0) : step s = .next s.endTick := by simp [step, h]

theorem step_slot {s : State} {k : Nat} (h : s.phase = .slots (k + 1)) :
    step s = State.slot { s with phase := .slots k } := by simp [step, h]

/-- A slot of an instance that is not running leaves the state (R127, R149). -/
theorem State.slot_skip {s : State} (h : s.running = false) : s.slot = .next s := by simp [State.slot, h]

theorem State.slot_run {s : State} (h : s.running = true) : s.slot = s.cycle := by simp [State.slot, h]

/-- A cycle: the fetch fails, or the word is invalid, or an instruction is executed (R59). -/
theorem State.cycle_cases (s : State) :
    (s.fetch = none ∧ s.cycle = .next (s.raiseFatal (.fetchOutOfRange s.pc))) ∨
    (∃ w, s.fetch = some w ∧ decodeWord s.cfg w = none ∧ s.cycle = .next (s.advance.logInvalid w)) ∨
    (∃ w i, s.fetch = some w ∧ decodeWord s.cfg w = some i ∧ s.cycle = exec i s.advance) := by
  unfold State.cycle
  cases hf : s.fetch with
  | none => exact .inl ⟨rfl, rfl⟩
  | some w =>
    cases hd : decodeWord s.cfg w with
    | none => exact .inr (.inl ⟨w, rfl, hd, by simp [hd]⟩)
    | some i => exact .inr (.inr ⟨w, i, rfl, hd, by simp [hd]⟩)

/-- The host is served: one of its four calls, or a tick with free inputs when none is pending (R135). -/
theorem State.serveHost_cases (s : State) :
    (s.calls = [] ∧ s.serveHost = .next (State.beginTick { s with frames := s.frames + 1 }
      (Config.frameKeys s.frames) (Config.framePress s.frames))) ∨
    (∃ k p rest, s.calls = .tick k p :: rest ∧ s.serveHost = .next (State.beginTick { s with calls := rest } k p)) ∨
    (∃ rest, s.calls = .togglePause :: rest ∧ s.serveHost = .next { s with calls := rest, paused := !s.paused }) ∨
    (∃ rest, s.calls = .reset :: rest ∧ s.serveHost = State.restart { s with calls := rest }) ∨
    (∃ rest, s.calls = .quit :: rest ∧ s.serveHost = .next { s with calls := rest, phase := .stopped }) := by
  unfold State.serveHost
  rcases s.calls with _ | ⟨c, rest⟩
  · simp
  · cases c <;> simp

/-! ### The start of a tick -/

/-- A tick on an instance that is not Live has no effect (R118). -/
theorem State.beginTick_fatal {s : State} {r : FatalReason} (h : s.status = .fatal r) (k : KeyTable)
    (p : Option Reg) : s.beginTick k p = s := by simp [State.beginTick, h]

theorem State.beginTick_live {s : State} (h : s.status = .live) (k : KeyTable) (p : Option Reg) :
    s.beginTick k p =
      State.resolveKey { s with keys := k, phase := .slots s.cfg.ipt, out := none } p := by
  simp [State.beginTick, h]

/-- The resolution writes the register only when not paused, waiting, and a press is signalled (R130). -/
theorem State.resolveKey_cases (s : State) (p : Option Reg) :
    (∃ x k, s.paused = false ∧ s.waiting = some x ∧ p = some k ∧
      s.resolveKey p = { s.setReg x (k.setWidth 8) with waiting := none }) ∨
    (¬ (s.paused = false ∧ s.waiting.isSome = true ∧ p.isSome = true) ∧ s.resolveKey p = s) := by
  unfold State.resolveKey
  cases hp : s.paused <;> cases hw : s.waiting <;> cases p <;> simp

/-! ### The end of a tick -/

theorem State.endTick_fatal {s : State} {r : FatalReason} (h : s.status = .fatal r) :
    s.endTick = { s with phase := .between } := by simp [State.endTick, h]

theorem State.endTick_live {s : State} (h : s.status = .live) :
    s.endTick =
      { s.decrementTimers with phase := .between, out := some s.decrementTimers.tickResult } := by
  simp [State.endTick, h]

/-- A timer's decrement, floored at 0 (R128). -/
theorem toNat_countDown (b : Byte) : (countDown b).toNat = b.toNat - 1 := by
  unfold countDown
  by_cases h : b = 0
  · subst h; rfl
  · have : b.toNat ≠ 0 := fun e => h (BitVec.eq_of_toNat_eq e)
    have := b.isLt
    simp only [h, if_false, BitVec.toNat_sub]
    simp
    omega

end Sys2Proof.Machine
end

