-- ==== Sys2Proof/Tests/Slice0.lean ====
section
/-! SUPPORT. Tests. Words written out bit by bit from 30_encoding.md; one step per vector of 95_test_vectors.md (the
vector named in each docstring gives the expected result); and for every statement with hypotheses a witness that meets
them, with one for each clause at the boundary of its range. -/

namespace Sys2Proof.Tests

open Sys2Proof Sys2Proof.Machine

/-! ### Helpers -/

/-- The reset state inside a tick, one cycle slot left. -/
def base : State := { State.reset with phase := .slots 1 }

/-- A state with some registers set. -/
def regs (l : List (Reg × Byte)) (s : State) : State := l.foldl (fun t p => t.setReg p.1 p.2) s

/-- A state with some bytes of memory set. -/
def bytes (a : Nat) (l : List Byte) (s : State) : State := s.storeBytes a l

/-- A state with an instruction word where the next step fetches it. -/
def word (w : Nat) (s : State) : State := s.withFetchWord 16 w

/-- The state after one step, if there is one. -/
def after (s : State) : Option State :=
  match step s with
  | .next t => some t
  | .fault _ => none
  | .refused _ => none

/-- The state after an instruction, if there is one. -/
def ran (i : Instr) (s : State) : Option State :=
  match exec i s with
  | .next t => some t
  | .fault _ => none
  | .refused _ => none

/-- The default parameters with the strict skip decode (R65). -/
def strict : Config := { Config.default with strictSkipRegDecode := true }

/-- The default parameters with the sequential operand order (R98). -/
def sequential : Config := { Config.default with flagOperandOrder := .sequential }

/-- The default parameters with the low nibble as key index (R113). -/
def lowNibble : Config := { Config.default with keyIndexPolicy := .lowNibble }

/-- A key table with one key down. -/
def key (k : Reg) : KeyTable := (Vector.replicate 16 false).set k.toNat true k.isLt

/-! ### Well-formed instructions (R65) -/

theorem test_wellFormed_refuses_strict_seReg : WellFormed strict (.seReg 1 2 1) = false := by decide

theorem test_wellFormed_refuses_strict_sneReg : WellFormed strict (.sneReg 1 2 0xF) = false := by decide

theorem test_wellFormed_admits :
    WellFormed Config.default (.seReg 1 2 1) = true ∧ WellFormed strict (.seReg 1 2 0) = true ∧
      WellFormed strict (.sneReg 1 2 0) = true := by decide

/-! ### Decoding: the words written out from the opcode map (R58, R67) -/

theorem test_decode_family0 :
    decodeTableWord 16 0b0000000011100000 = some .cls ∧ decodeTableWord 16 0b0000000011101110 = some .ret := by decide

theorem test_decode_jumps :
    decodeTableWord 16 0b0001001000110100 = some (.jp 0x234) ∧
      decodeTableWord 16 0b0010001100000000 = some (.call 0x300) ∧
      decodeTableWord 16 0b1011111111111111 = some (.jpV0 0xFFF) := by decide

theorem test_decode_skips :
    decodeTableWord 16 0b0011001100010000 = some (.seImm 3 0x10) ∧
      decodeTableWord 16 0b0100001100010001 = some (.sneImm 3 0x11) ∧
      decodeTableWord 16 0b0101000100100000 = some (.seReg 1 2 0) ∧
      decodeTableWord 16 0b1001000100100000 = some (.sneReg 1 2 0) := by decide

theorem test_decode_immediates :
    decodeTableWord 16 0b0110101001000010 = some (.ldImm 0xA 0x42) ∧
      decodeTableWord 16 0b0111000111111111 = some (.addImm 1 0xFF) ∧
      decodeTableWord 16 0b1100001100001111 = some (.rnd 3 0x0F) := by decide

theorem test_decode_family8_logic :
    decodeTableWord 16 0b1000000000010000 = some (.ldReg 0 1) ∧
      decodeTableWord 16 0b1000000000010001 = some (.orReg 0 1) ∧
      decodeTableWord 16 0b1000000000010010 = some (.andReg 0 1) ∧
      decodeTableWord 16 0b1000000000010011 = some (.xorReg 0 1) := by decide

theorem test_decode_family8_arith :
    decodeTableWord 16 0b1000000100100100 = some (.addReg 1 2) ∧
      decodeTableWord 16 0b1000111100110101 = some (.subReg 15 3) ∧
      decodeTableWord 16 0b1000000110100110 = some (.shr 1 0xA) ∧
      decodeTableWord 16 0b1000000111110111 = some (.subnReg 1 15) ∧
      decodeTableWord 16 0b1000000110101110 = some (.shl 1 0xA) := by decide

theorem test_decode_index_display :
    decodeTableWord 16 0b1010001011110000 = some (.ldIndex 0x2F0) ∧
      decodeTableWord 16 0b1101000100100101 = some (.drw 1 2 5) := by decide

theorem test_decode_familyE :
    decodeTableWord 16 0b1110010110011110 = some (.skp 5) ∧
      decodeTableWord 16 0b1110010110100001 = some (.sknp 5) := by decide

theorem test_decode_familyF_timers :
    decodeTableWord 16 0b1111001100000111 = some (.ldFromDt 3) ∧
      decodeTableWord 16 0b1111001000001010 = some (.ldKey 2) ∧
      decodeTableWord 16 0b1111000000010101 = some (.ldDt 0) ∧
      decodeTableWord 16 0b1111000100011000 = some (.ldSt 1) := by decide

theorem test_decode_familyF_memory :
    decodeTableWord 16 0b1111000100011110 = some (.addIndex 1) ∧
      decodeTableWord 16 0b1111010000101001 = some (.ldFont 4) ∧
      decodeTableWord 16 0b1111010100110011 = some (.ldBcd 5) ∧
      decodeTableWord 16 0b1111001001010101 = some (.storeRegs 2) ∧
      decodeTableWord 16 0b1111001001100101 = some (.loadRegs 2) := by decide

/-- V-INV-1 to V-INV-3. -/
theorem test_decode_invalid :
    decodeTableWord 16 0x0000 = none ∧ decodeTableWord 16 0x8008 = none ∧ decodeTableWord 16 0xE000 = none ∧
      decodeTableWord 16 0xF0FF = none ∧ decodeTableWord 16 0x01E0 = none := by decide

/-! ### Display -/

/-- V-DRW-1. -/
theorem test_cls :
    (after (word 0x00E0 { base with fb := setCell (setCell State.reset.fb 0 0 true) 63 31 true })).map
      (fun t => (cellAt t.fb 0 0, cellAt t.fb 63 31, t.reg vf, t.pc)) = some (false, false, 0, 0x202) := by decide

/-- V-DRW-3: the start wraps to (6, 8). -/
theorem test_drw_wraps :
    (after (word 0xD011 (regs [(0, 70), (1, 40)] (bytes 0x300 [0xC0] { base with i := 0x300 })))).map
      (fun t => (cellAt t.fb 6 8, cellAt t.fb 7 8, cellAt t.fb 5 8, t.reg vf)) = some (true, true, false, 0) := by decide

/-- V-DRW-10: one pixel set, one cleared, collision. -/
theorem test_drw_collides :
    (after (word 0xD011 (regs [(0, 62), (1, 31)]
        (bytes 0x300 [0xC0] { base with i := 0x300, fb := setCell State.reset.fb 63 31 true })))).map
      (fun t => (cellAt t.fb 62 31, cellAt t.fb 63 31, t.reg vf)) = some (true, false, 1) := by decide

/-! ### Control flow -/

/-- V-CF-2, V-CF-1. -/
theorem test_ret :
    (after (word 0x00EE { base with stack := [0x206, 0x20A] })).map (fun t => (t.pc, t.stack)) = some (0x20A, [0x206]) ∧
      (after (word 0x00EE base)).map (fun t => (t.status, t.phase, t.pc)) =
        some (.fatal .stackUnderflow, .between, 0x202) := by decide

/-- V-CF-3, V-CF-4: an odd target is taken. -/
theorem test_jp :
    (after (word 0x1234 base)).map (fun t => t.pc) = some 0x234 ∧
      (after (word 0x1201 base)).map (fun t => t.pc) = some 0x201 := by decide

/-- V-CF-5, V-CF-6. -/
theorem test_call :
    (after (word 0x2400 { base with pc := 0x300, stack := List.replicate 15 0x208 })).map
        (fun t => (t.pc, t.stack.length, t.stack.getLast?)) = some (0x400, 16, some 0x302) ∧
      (after (word 0x2400 { base with stack := List.replicate 16 0x208 })).map (fun t => (t.status, t.stack.length)) =
        some (.fatal .stackOverflow, 16) := by decide

/-- V-CF-7. -/
theorem test_seImm :
    (after (word 0x3310 (regs [(3, 0x10)] base))).map (fun t => t.pc) = some 0x204 ∧
      (after (word 0x3311 (regs [(3, 0x10)] base))).map (fun t => t.pc) = some 0x202 := by decide

/-- V-CF-8. -/
theorem test_sneImm :
    (after (word 0x4310 (regs [(3, 0x10)] base))).map (fun t => t.pc) = some 0x202 ∧
      (after (word 0x4311 (regs [(3, 0x10)] base))).map (fun t => t.pc) = some 0x204 := by decide

/-- V-CF-9, V-CF-10: the low nibble is ignored by default and invalid when strict. -/
theorem test_seReg :
    (after (word 0x5120 (regs [(1, 7), (2, 7)] base))).map (fun t => t.pc) = some 0x204 ∧
      (after (word 0x5121 (regs [(1, 7), (2, 7)] base))).map (fun t => t.pc) = some 0x204 ∧
      (after (word 0x5121 (regs [(1, 7), (2, 7)] { base with cfg := strict }))).map (fun t => (t.pc, t.log)) =
        some (0x202, [0x5121]) := by decide

/-- V-CF-11. -/
theorem test_sneReg :
    (after (word 0x9120 (regs [(1, 7), (2, 8)] base))).map (fun t => t.pc) = some 0x204 ∧
      (after (word 0x9110 (regs [(1, 7), (2, 8)] base))).map (fun t => t.pc) = some 0x202 := by decide

/-- V-CF-12, V-CF-13. -/
theorem test_jpV0 :
    (after (word 0xB300 (regs [(0, 0x10)] base))).map (fun t => t.pc) = some 0x310 ∧
      (after (word 0xBFFF (regs [(0, 0xFF)] base))).map (fun t => t.pc) = some 0x10FE := by decide

/-- V-CF-14: a skip at the top of memory, and the fetch after it. -/
theorem test_fetch_past_the_end :
    (after (word 0x3000 { base with pc := 0xFFC })).map (fun t => (t.pc, t.status)) = some (0x1000, .live) ∧
      (after { base with pc := 0x1000 }).map (fun t => (t.pc, t.status)) =
        some (0x1000, .fatal (.fetchOutOfRange 0x1000)) := by decide

/-! ### Registers and arithmetic -/

/-- V-ALU-1. -/
theorem test_ldImm : (after (word 0x6A42 base)).map (fun t => t.reg 0xA) = some 0x42 := by decide

/-- L1-3, V-ALU-3. -/
theorem test_addImm :
    (after (word 0x710A (regs [(1, 0xFA), (15, 0x55)] base))).map (fun t => (t.reg 1, t.reg 15)) = some (0x04, 0x55) ∧
      (after (word 0x7F01 (regs [(15, 1)] base))).map (fun t => t.reg 15) = some 2 := by decide

/-- V-ALU-4. -/
theorem test_ldReg : (after (word 0x8010 (regs [(1, 9)] base))).map (fun t => t.reg 0) = some 9 := by decide

/-- V-ALU-5: VF is unchanged. -/
theorem test_orReg :
    (after (word 0x8011 (regs [(0, 0x0F), (1, 0xF0), (15, 0x33)] base))).map (fun t => (t.reg 0, t.reg 15)) =
      some (0xFF, 0x33) := by decide

/-- V-ALU-6. -/
theorem test_andReg :
    (after (word 0x8012 (regs [(0, 0x3C), (1, 0x0F)] base))).map (fun t => t.reg 0) = some 0x0C := by decide

/-- V-ALU-7. -/
theorem test_xorReg : (after (word 0x8003 (regs [(0, 0x5A)] base))).map (fun t => t.reg 0) = some 0 := by decide

/-- V-ALU-8, V-ALU-9. -/
theorem test_addReg_carry :
    (after (word 0x8124 (regs [(1, 0xFF), (2, 0)] base))).map (fun t => (t.reg 1, t.reg 15)) = some (0xFF, 0) ∧
      (after (word 0x8124 (regs [(1, 0xFF), (2, 1)] base))).map (fun t => (t.reg 1, t.reg 15)) = some (0, 1) := by decide

/-- V-ALU-11, V-ALU-12. -/
theorem test_addReg_vf :
    (after (word 0x8F24 (regs [(15, 0xF0), (2, 0x20)] base))).map (fun t => t.reg 15) = some 0x10 ∧
      (after (word 0x81F4 (regs [(1, 0x10), (15, 0xF5)] base))).map (fun t => (t.reg 1, t.reg 15)) =
        some (0x05, 1) := by decide

/-- L1-5a, V-ALU-13. -/
theorem test_subReg :
    (after (word 0x8125 (regs [(1, 10), (2, 20)] base))).map (fun t => (t.reg 1, t.reg 15)) = some (246, 0) ∧
      (after (word 0x8125 (regs [(1, 0x33), (2, 0x33)] base))).map (fun t => (t.reg 1, t.reg 15)) = some (0, 1) := by
  decide

/-- V-ALU-23, V-ALU-24, both orders. -/
theorem test_subReg_orders :
    (after (word 0x8F35 (regs [(15, 0x0A), (3, 3)] base))).map (fun t => t.reg 15) = some 0x07 ∧
      (after (word 0x8F35 (regs [(15, 0x0A), (3, 3)] { base with cfg := sequential }))).map (fun t => t.reg 15) =
        some 0xFE ∧
      (after (word 0x81F5 (regs [(1, 5), (15, 0x0A)] { base with cfg := sequential }))).map
        (fun t => (t.reg 1, t.reg 15)) = some (5, 0) := by decide

/-- V-ALU-17. -/
theorem test_shr :
    (after (word 0x81A6 (regs [(1, 1)] base))).map (fun t => (t.reg 1, t.reg 15)) = some (0, 1) ∧
      (after (word 0x81A6 (regs [(1, 0xFF)] base))).map (fun t => (t.reg 1, t.reg 15)) = some (0x7F, 1) := by decide

/-- V-ALU-28, both orders. -/
theorem test_shr_orders :
    (after (word 0x8F06 (regs [(15, 3)] base))).map (fun t => t.reg 15) = some 1 ∧
      (after (word 0x8F06 (regs [(15, 3)] { base with cfg := sequential }))).map (fun t => t.reg 15) = some 0 := by
  decide

/-- V-ALU-15, V-ALU-16. -/
theorem test_subnReg :
    (after (word 0x8127 (regs [(1, 0x14), (2, 0x0A)] base))).map (fun t => (t.reg 1, t.reg 15)) = some (0xF6, 0) ∧
      (after (word 0x8127 (regs [(1, 0x0A), (2, 0x14)] base))).map (fun t => (t.reg 1, t.reg 15)) = some (0x0A, 1) := by
  decide

/-- V-ALU-26, V-ALU-27, both orders. -/
theorem test_subnReg_orders :
    (after (word 0x8F37 (regs [(15, 0x0A), (3, 3)] base))).map (fun t => t.reg 15) = some 0xF9 ∧
      (after (word 0x8F37 (regs [(15, 0x0A), (3, 3)] { base with cfg := sequential }))).map (fun t => t.reg 15) =
        some 0x03 ∧
      (after (word 0x81F7 (regs [(1, 5), (15, 0x0A)] { base with cfg := sequential }))).map
        (fun t => (t.reg 1, t.reg 15)) = some (0xFC, 1) := by decide

/-- V-ALU-18. -/
theorem test_shl :
    (after (word 0x81AE (regs [(1, 0x80)] base))).map (fun t => (t.reg 1, t.reg 15)) = some (0, 1) ∧
      (after (word 0x81AE (regs [(1, 0x7F)] base))).map (fun t => (t.reg 1, t.reg 15)) = some (0xFE, 0) := by decide

/-- V-ALU-30, V-ALU-31, both orders. -/
theorem test_shl_orders :
    (after (word 0x8F0E (regs [(15, 0x41)] base))).map (fun t => t.reg 15) = some 0x82 ∧
      (after (word 0x8F0E (regs [(15, 0x41)] { base with cfg := sequential }))).map (fun t => t.reg 15) = some 0 ∧
      (after (word 0x8F0E (regs [(15, 0x81)] { base with cfg := sequential }))).map (fun t => t.reg 15) = some 2 := by
  decide

/-- V-ALU-21: whatever byte is drawn. -/
theorem test_rnd (b : Byte) : ran (.rnd 3 0x00) (regs [(3, b)] base) =
    some ((regs [(3, b)] { base with draws := 1 }).setReg 3 0) := by
  simp [ran, exec, execRnd, State.drawRandom, regs]
  rfl

/-! ### Index and memory -/

/-- V-IDX-1. -/
theorem test_ldIndex : (after (word 0xA2F0 base)).map (fun t => t.i) = some 0x2F0 := by decide

/-- V-IDX-2: modulo 4096, no flag. -/
theorem test_addIndex :
    (after (word 0xF11E (regs [(1, 0x20)] { base with i := 0xFF0 }))).map (fun t => (t.i, t.reg vf)) =
      some (0x010, 0) := by decide

/-- V-IDX-4, V-IDX-6. -/
theorem test_ldFont :
    (after (word 0xF429 (regs [(4, 0x0A)] base))).map (fun t => t.i) = some 0x032 ∧
      (after (word 0xF429 (regs [(4, 0xFF)] base))).map (fun t => t.i) = some 0x4FB := by decide

/-- V-IDX-7, V-IDX-8. -/
theorem test_ldBcd :
    (after (word 0xF533 (regs [(5, 0xFF)] { base with i := 0x300 }))).map (fun t => (t.bytesAt 0x300 3, t.i)) =
        some ([2, 5, 5], 0x300) ∧
      (after (word 0xF533 (regs [(5, 0x7B)] { base with i := 0xFFD }))).map (fun t => t.bytesAt 0xFFD 3) =
        some [1, 2, 3] := by decide

/-- V-IDX-9: nothing is stored. -/
theorem test_ldBcd_fatal :
    (after (word 0xF533 (regs [(5, 0x7B)] { base with i := 0xFFE }))).map (fun t => (t.status, t.bytesAt 0xFFE 2)) =
      some (.fatal (.memWriteOutOfRange 4096), [0, 0]) := by decide

/-- V-IDX-10, V-IDX-17: the font may be overwritten. -/
theorem test_storeRegs :
    (after (word 0xF255 (regs [(0, 1), (1, 2), (2, 3), (3, 4)] { base with i := 0x300 }))).map
        (fun t => (t.bytesAt 0x300 4, t.i)) = some ([1, 2, 3, 0], 0x300) ∧
      (after (word 0xF055 (regs [(0, 0xFF)] base))).map (fun t => t.bytesAt 0 2) = some [0xFF, 0x90] := by decide

/-- V-IDX-13. -/
theorem test_storeRegs_fatal :
    (after (word 0xFF55 { base with i := 0xFF1 })).map (fun t => t.status) =
      some (.fatal (.memWriteOutOfRange 4096)) := by decide

/-- V-IDX-14. -/
theorem test_loadRegs :
    (after (word 0xF165 (regs [(2, 0x77)] (bytes 0x300 [0xAA, 0xBB] { base with i := 0x300 })))).map
      (fun t => (t.reg 0, t.reg 1, t.reg 2, t.i)) = some (0xAA, 0xBB, 0x77, 0x300) := by decide

/-- V-IDX-16. -/
theorem test_loadRegs_fatal :
    (after (word 0xF165 { base with i := 0xFFF })).map (fun t => t.status) =
      some (.fatal (.memReadOutOfRange 4096)) := by decide

/-! ### Keys and timers -/

/-- V-KEY-1, V-KEY-2. -/
theorem test_skp :
    (after (word 0xE59E (regs [(5, 0x0C)] { base with keys := key 0xC }))).map (fun t => t.pc) = some 0x204 ∧
      (after (word 0xE59E (regs [(5, 0x0C)] base))).map (fun t => t.pc) = some 0x202 := by decide

/-- V-KEY-5, both policies. -/
theorem test_skp_index :
    (after (word 0xE59E (regs [(5, 0x10)] base))).map (fun t => t.status) = some (.fatal (.keyIndexOutOfRange 0x10)) ∧
      (after (word 0xE59E (regs [(5, 0x10)] { base with cfg := lowNibble, keys := key 0 }))).map (fun t => t.pc) =
        some 0x204 := by decide

/-- V-KEY-3, V-KEY-4. -/
theorem test_sknp :
    (after (word 0xE5A1 (regs [(5, 0x0C)] base))).map (fun t => t.pc) = some 0x204 ∧
      (after (word 0xE5A1 (regs [(5, 0x0C)] { base with keys := key 0xC }))).map (fun t => t.pc) = some 0x202 := by decide

/-- V-TMR-1. -/
theorem test_ldFromDt :
    (after (word 0xF307 { base with dt := 0x3C })).map (fun t => (t.reg 3, t.dt)) = some (0x3C, 0x3C) := by decide

/-- V-TMR-5. -/
theorem test_ldKey :
    (after (word 0xF20A { base with pc := 0x20A })).map (fun t => (t.waiting, t.pc, t.reg 2)) =
      some (some 2, 0x20C, 0) := by decide

/-- V-TMR-2: DT is 3 during the tick. -/
theorem test_ldDt : (after (word 0xF015 (regs [(0, 3)] base))).map (fun t => t.dt) = some 3 := by decide

/-- V-TMR-3. -/
theorem test_ldSt : (after (word 0xF118 (regs [(1, 0x10)] base))).map (fun t => t.st) = some 0x10 := by decide

/-! ### The tick and the host -/

/-- V-INV-2. -/
theorem test_invalid_word :
    (after (word 0x8008 base)).map (fun t => (t.log, t.pc, t.status)) = some ([0x8008], 0x202, .live) := by decide

/-- V-TICK-6 and V-TICK-3: timers are floored at 0 and count down while waiting. -/
theorem test_tick_end :
    (after { base with phase := .slots 0, waiting := some 2, dt := 5 }).map
      (fun t => (t.dt, t.st, t.phase, t.out.map (fun o => (o.paused, o.sound)))) =
        some (4, 0, .between, some (false, false)) := by decide

/-- V-TICK-2: a paused tick ends without a decrement. -/
theorem test_tick_end_paused :
    (after { base with phase := .slots 0, paused := true, dt := 5 }).map (fun t => t.dt) = some 5 := by decide

/-- L1-10: key 7 resolves the wait. -/
theorem test_tick_resolves :
    (after { State.reset with waiting := some 2, calls := [.tick (key 7) (some 7)] }).map
      (fun t => (t.reg 2, t.waiting, t.phase, t.keyDown 7)) = some (7, none, .slots 10, true) := by decide

/-- V-TICK-4: a press while paused is ignored. -/
theorem test_tick_paused_ignores_press :
    (after { State.reset with waiting := some 2, paused := true, calls := [.tick (key 7) (some 7)] }).map
      (fun t => (t.reg 2, t.waiting)) = some (0, some 2) := by decide

/-- The word is fetched and run from the reset state itself, and at the last address a fetch reads (R42). -/
theorem test_withFetchWord :
    (after (State.reset.withFetchWord 16 0x6A42)).map (fun t => (t.reg 0xA, t.pc)) = some (0x42, 0x202) ∧
      (after ({ State.reset with pc := 0xFFE }.withFetchWord 16 0x6A42)).map (fun t => (t.reg 0xA, t.pc)) =
        some (0x42, 0x1000) := by decide

/-- A construction takes the log from RESET_VALUES, empty by default (R38, spec decision D6; log 30). -/
theorem test_construct_log :
    (State.construct { Config.default with resetValues := { ResetValues.zero with log := [0x8008] } } []).map
        (fun t => t.log) = some [0x8008] ∧
      (State.construct Config.default []).map (fun t => t.log) = some [] := by decide

/-- The font is there at reset (R48). -/
theorem test_reset_font :
    State.reset.bytesAt 0 5 = [0xF0, 0x90, 0x90, 0x90, 0xF0] ∧ State.reset.byteAt 79 = 0x80 ∧
      State.reset.byteAt 80 = 0 := by decide

/-! ### Witnesses: encoding -/

/-- DecodeEncodeRoundTrip, under both decodes. -/
theorem witness_DecodeEncodeRoundTrip :
    WellFormed Config.default (.seReg 1 2 0xF) = true ∧ WellFormed strict (.seReg 1 2 0) = true := by decide

/-- EncodeDecodeRoundTrip, and the first clause of DecodeFollowsOpcodeMap. -/
theorem witness_EncodeDecodeRoundTrip : decodeWord Config.default 0x5121 = some (.seReg 1 2 1) := by decide

/-- The second clause of DecodeFollowsOpcodeMap; the instruction decoded is another one of the same row. -/
theorem witness_DecodeFollowsOpcodeMap :
    (opcodeRow Config.default (.jp 0)).selects 0x1234 = true ∧ (opcodeRow strict (.seReg 0 0 0)).selects 0x5120 = true := by
  decide

/-- InvalidWordsAreThoseListed: an invalid word of each kind at the edges of its range, and their valid neighbours. -/
theorem witness_InvalidWordsAreThoseListed :
    decodeWord Config.default 0x0000 = none ∧ decodeWord Config.default 0x0FFF = none ∧
      decodeWord Config.default 0x8008 = none ∧ decodeWord Config.default 0x8FFF = none ∧
      decodeWord Config.default 0xE09D = none ∧ decodeWord Config.default 0xEFA2 = none ∧
      decodeWord Config.default 0xF006 = none ∧ decodeWord Config.default 0xFF66 = none ∧
      decodeWord strict 0x5001 = none ∧ decodeWord strict 0x9FFF = none ∧
      (decodeWord Config.default 0x800E).isSome = true ∧ (decodeWord strict 0x9FF0).isSome = true := by decide

/-! ### Witnesses: one step -/

/-- A running state at the last address a fetch reads from, with a halt loop there. -/
def atEnd : State := word 0x1FFE { base with pc := 0xFFE }

/-- StepRunsDecodedInstruction. -/
theorem witness_StepRunsDecodedInstruction :
    atEnd.phase = .slots (0 + 1) ∧ atEnd.running = true ∧ atEnd.pc.toNat + 1 < 4096 ∧
      decodeWord atEnd.cfg (wordOfBytes (atEnd.byteAt atEnd.pc.toNat) (atEnd.byteAt (atEnd.pc.toNat + 1))) =
        some (.jp 0xFFE) := by decide

theorem witness_StepRunsDecodedInstruction_decode :
    decode atEnd.cfg [atEnd.byteAt atEnd.pc.toNat, atEnd.byteAt (atEnd.pc.toNat + 1)] = .ok (.jp 0xFFE, []) := rfl

/-- FetchIsBigEndianOrFatal, each clause at its boundary. -/
theorem witness_FetchIsBigEndianOrFatal :
    (atEnd.phase = .slots (0 + 1) ∧ atEnd.running = true ∧ atEnd.pc.toNat < 0xFFF) ∧
      ({ base with pc := 0xFFF } : State).phase = .slots (0 + 1) ∧ ({ base with pc := 0xFFF } : State).running = true ∧
      0xFFF ≤ ({ base with pc := 0xFFF } : State).pc.toNat := by decide

/-- InvalidOpcodeIsLoggedAndSkipped. -/
theorem witness_InvalidOpcodeIsLoggedAndSkipped :
    base.phase = .slots (0 + 1) ∧ base.running = true ∧ base.pc.toNat + 1 < 4096 ∧
      decode base.cfg [base.byteAt base.pc.toNat, base.byteAt (base.pc.toNat + 1)] = .error (.invalidOpcode 0x0000) :=
  ⟨rfl, rfl, by decide, rfl⟩

/-- SkippedSlotExecutesNothing, both reasons. -/
theorem witness_SkippedSlotExecutesNothing :
    (({ base with paused := true } : State).phase = .slots (0 + 1) ∧ ({ base with paused := true } : State).paused = true) ∧
      ({ base with waiting := some 0 } : State).phase = .slots (0 + 1) ∧
      ({ base with waiting := some 0 } : State).waiting.isSome = true := by decide

/-! ### Witnesses: the tick and the host -/

/-- TickFollowsPseudocode, TickStartResolvesKeyWait (the resolving clause) and the tick of HaltLoopPersists. -/
def ticking : State := { State.reset with waiting := some 2, calls := [.tick (key 7) (some 7)] }

theorem witness_TickFollowsPseudocode :
    ticking.phase = .between ∧ ticking.calls = .tick (key 7) (some 7) :: [] := by decide

theorem witness_TickStartResolvesKeyWait :
    ticking.phase = .between ∧ ticking.status = .live ∧ ticking.calls = .tick (key 7) (some 7) :: [] ∧
      ticking.paused = false ∧ ticking.waiting = some 2 := by decide

/-- TickStartResolvesKeyWait, the three ways to ignore a press. -/
theorem witness_TickStartResolvesKeyWait_ignored :
    ({ ticking with paused := true } : State).paused = true ∧ ({ ticking with waiting := none } : State).waiting = none ∧
      ({ ticking with calls := [.tick (key 7) none] } : State).calls = .tick (key 7) none :: [] := by decide

/-- TickEndDecrementsTimers: paused and not, timers at 0 and at 255. -/
theorem witness_TickEndDecrementsTimers :
    ({ base with phase := .slots 0, dt := 0xFF } : State).phase = .slots 0 ∧
      ({ base with phase := .slots 0, dt := 0xFF } : State).status = .live ∧
      (after { base with phase := .slots 0, dt := 0xFF }).map (fun t => (t.dt, t.st)) = some (0xFE, 0) ∧
      (after { base with phase := .slots 0, paused := true, dt := 0xFF }).map (fun t => t.dt) = some 0xFF := by decide

/-- TimersChangeNowhereElse: a step of each of the three kinds that changes a timer. -/
theorem witness_TimersChangeNowhereElse :
    (after { base with phase := .slots 0, dt := 1 }).map (fun t => t.dt) = some 0 ∧
      (after { State.reset with st := 1, calls := [.reset] }).map (fun t => t.st) = some 0 ∧
      (after (word 0xF018 (regs [(0, 1)] base))).map (fun t => t.st) = some 1 := by decide

/-- KeyTableChangesOnlyAtTickStart: a tick that changes the table and a reset that does. -/
theorem witness_KeyTableChangesOnlyAtTickStart :
    (after ticking).map (fun t => t.keys) = some (key 7) ∧ ticking.keys ≠ key 7 ∧
      (after { State.reset with keys := key 3, calls := [.reset] }).map (fun t => t.keys) = some State.reset.keys ∧
      key 3 ≠ State.reset.keys := by decide

/-- KeyTableChangesOnlyAtTickStart: a tick with free inputs, from a table that differs from the free one. -/
theorem witness_KeyTableChangesOnlyAtTickStart_free :
    ∃ s t : State, step s = .next t ∧ t.keys ≠ s.keys ∧ s.calls = [] := by
  let flipped : KeyTable := (Config.frameKeys 0).set 0 (!(Config.frameKeys 0)[0])
  refine ⟨{ State.reset with keys := flipped }, _, rfl, ?_, rfl⟩
  show Config.frameKeys 0 ≠ flipped
  intro h
  have := congrArg (fun k : KeyTable => k[0]) h
  simp [flipped] at this

/-- UnqueuedTickTakesFreeInputs, with a wait pending. -/
theorem witness_UnqueuedTickTakesFreeInputs :
    ({ State.reset with waiting := some 2 } : State).phase = .between ∧
      ({ State.reset with waiting := some 2 } : State).status = .live ∧
      ({ State.reset with waiting := some 2 } : State).calls = [] ∧
      ({ State.reset with waiting := some 2 } : State).paused = false := by decide

/-- PauseToggleFlipsPausedOnly, each clause. -/
theorem witness_PauseToggleFlipsPausedOnly :
    ({ ticking with calls := [.togglePause] } : State).phase = .between ∧
      ({ ticking with calls := [.togglePause] } : State).calls = .togglePause :: [] ∧
      ({ base with paused := true } : State).phase = .slots (0 + 1) ∧ ({ base with paused := true } : State).paused = true ∧
      ({ base with paused := true, phase := .slots 0 } : State).phase = .slots 0 := by decide

/-- A ROM that fills the program region, and one that is a byte too long (R50). -/
theorem witness_rom_lengths :
    (List.replicate 3584 (0 : Byte)).length ≤ 3584 ∧ 3584 < (List.replicate 3585 (0 : Byte)).length :=
  ⟨Nat.le_of_eq List.length_replicate, Nat.lt_of_lt_of_eq (Nat.lt_succ_self 3584) List.length_replicate.symm⟩

/-- ResetConstructsFreshInstance, DefaultConstructionState and ConstructionOverAllParameters: the font base at the end of
its region and one past it. -/
theorem witness_ResetConstructsFreshInstance :
    ({ State.reset with calls := [.reset] } : State).phase = .between ∧
      ({ State.reset with calls := [.reset] } : State).calls = .reset :: [] ∧
      ({ Config.default with fontBase := 0x1B0 } : Config).wf = true ∧
      ({ Config.default with fontBase := 0x1B1 } : Config).wf = false ∧ State.reset.rom.length ≤ 3584 := by decide

/-- ConstructionOverAllParameters: reset values other than zero are admitted, at the bounds. -/
theorem witness_ConstructionOverAllParameters :
    ({ Config.default with
        stackDepth := 1
        resetValues := { ResetValues.zero with i := 0xFFF, stack := [0x1000], dt := 1, mem := [1], log := [0x8008] } } :
      Config).wf = true := by
  decide

/-- QuitEndsTheTicks. -/
theorem witness_QuitEndsTheTicks :
    ({ State.reset with calls := [.quit] } : State).phase = .between ∧
      ({ State.reset with calls := [.quit] } : State).calls = .quit :: [] := by decide

/-- FatalStatusIsFinal: a fatal instance with a tick, and with a reset, pending. -/
theorem witness_FatalStatusIsFinal :
    (after { ticking with status := .fatal .stackUnderflow }).map (fun t => (t.status, t.waiting)) =
        some (.fatal .stackUnderflow, some 2) ∧
      (after { State.reset with status := .fatal .stackUnderflow, calls := [.reset] }).map (fun t => t.status) =
        some .live := by decide

/-! ### Witnesses: the invariant -/

/-- StepKeepsInvariant: the reset state meets the invariant, and so does a state at its bounds, which steps. -/
theorem witness_StepKeepsInvariant_reset : State.reset.Inv := by
  refine ⟨by decide, by decide, by decide, by decide, by decide, ?_, by decide, ?_⟩
  · intro a h; simp [State.reset] at h
  · intro k h; simp [State.reset] at h

/-- I and the pc at their bounds, the stack full. -/
def atBounds : State := { base with i := 0xFFF, pc := 0x10FE, stack := List.replicate 16 0x1000 }

theorem witness_StepKeepsInvariant : atBounds.Inv := by
  refine ⟨by decide, by decide, by decide, by decide, by decide, ?_, by decide, ?_⟩
  · intro a h
    simp only [atBounds, List.mem_replicate] at h
    rw [h.2]; decide
  · intro k h
    have : k = 1 := by simpa [atBounds, base] using h.symm
    subst this
    decide

theorem witness_StepKeepsInvariant_steps : ∃ t, step atBounds = .next t := ⟨_, rfl⟩

/-- MemoryFormIsUnique: two memories built in different orders. -/
theorem witness_MemoryFormIsUnique :
    Memory.wf Config.default [(0x300, 5), (0xFFF, 7)] = true ∧
      Memory.wf Config.default (Memory.write Config.default (Memory.write Config.default [] 0xFFF 7) 0x300 5) = true ∧
      Memory.write Config.default (Memory.write Config.default [] 0xFFF 7) 0x300 5 = [(0x300, 5), (0xFFF, 7)] := by decide

/-! ### Witnesses: display -/

/-- A state whose sprite of one row has its leftmost pixel on, at column 63 and row 31, on a clear screen. -/
def sprite : State := regs [(0, 63), (1, 31)] (bytes 0x300 [0x80] { base with i := 0x300 })

/-- DrawTogglesCoveredCells: no row at the top of memory, the last block that fits, and one byte past it. -/
theorem witness_DrawTogglesCoveredCells :
    ((0 : Nibble).toNat = 0 ∨ ({ base with i := 0xFFF } : State).i.toNat + (0 : Nibble).toNat ≤ 4096) ∧
      ({ base with i := 0xFFF } : State).i.toNat + (1 : Nibble).toNat ≤ 4096 ∧ 0 < (2 : Nibble).toNat ∧
      4096 < ({ base with i := 0xFFF } : State).i.toNat + (2 : Nibble).toNat := by decide

/-- DrawTogglesCoveredCells: a draw that collides. -/
theorem witness_DrawTogglesCoveredCells_collides :
    SpriteCollides { sprite with fb := setCell sprite.fb 63 31 true } 63 31 1 :=
  ⟨63, 31, by decide, by decide, ⟨0, by decide, 0, by decide, by decide, by decide, by decide⟩, by decide⟩

/-- DrawTogglesCoveredCells: one that does not. -/
theorem witness_DrawTogglesCoveredCells_clear : ¬ SpriteCollides base 63 31 0 := by
  rintro ⟨_, _, _, _, ⟨r, hr, _⟩, _⟩
  omega

/-- DrawTwiceRestoresFramebuffer. -/
theorem witness_DrawTwiceRestoresFramebuffer :
    ((0 : Reg) ≠ vf ∧ (1 : Reg) ≠ vf ∧ sprite.i.toNat + (1 : Nibble).toNat ≤ 4096) ∧
      ∃ t u, exec (.drw 0 1 1) sprite = .next t ∧ exec (.drw 0 1 1) t = .next u :=
  ⟨by decide, _, _, rfl, rfl⟩

/-! ### Witnesses: control flow -/

/-- ReturnPopsTheStack, each clause. -/
theorem witness_ReturnPopsTheStack :
    ({ base with stack := [0x206, 0x20A] } : State).stack = [0x206] ++ [0x20A] ∧ base.stack = [] := by decide

/-- CallPushesPc, ReturnUndoesCall and the last clause of ReturnPopsTheStack: one entry left, and none. -/
theorem witness_CallPushesPc :
    ({ base with stack := List.replicate 15 0x206 } : State).stack.length < base.cfg.stackDepth ∧
      ({ base with stack := List.replicate 16 0x206 } : State).stack.length = base.cfg.stackDepth := by decide

/-- JumpsSetPc: the lowest targets whose fetch fails. -/
theorem witness_JumpsSetPc :
    0xFFF ≤ (0xFFF : Imm12).toNat ∧ 0xFFF ≤ (0xF00 : Imm12).toNat + ((regs [(0, 0xFF)] base).reg 0).toNat := by decide

/-- RegisterSkips: the default decode with a low nibble of 15, the strict one with 0 and with 15. -/
theorem witness_RegisterSkips :
    (base.cfg.strictSkipRegDecode = false ∨ (0xF : Nibble) = 0) ∧ (strict.strictSkipRegDecode = false ∨ (0 : Nibble) = 0) ∧
      strict.strictSkipRegDecode = true ∧ (0xF : Nibble) ≠ 0 := by decide

/-! ### Witnesses: registers and arithmetic -/

/-- AddSetsCarry, SubtractionsSetNoBorrow, ShiftRightDropsBitZero, ShiftLeftDropsBitSeven: a destination beside VF and VF
itself, under each operand order. -/
theorem witness_flag_operand_orders :
    (14 : Reg) ≠ vf ∧ (15 : Reg) = vf ∧ base.cfg.flagOperandOrder = .latched ∧
      ({ base with cfg := sequential } : State).cfg.flagOperandOrder = .sequential := by decide

/-- OperandOrdersAgreeElsewhere: a subtraction of VF from VF. -/
theorem witness_OperandOrdersAgreeElsewhere :
    (∀ x y, Instr.subReg vf vf = .subReg x y ∨ Instr.subReg vf vf = .subnReg x y → (x = vf ↔ y = vf)) ∧
      (∀ x y, Instr.subReg vf vf = .shr x y ∨ Instr.subReg vf vf = .shl x y → x ≠ vf) ∧
      ∃ t u, exec (.subReg vf vf) base = .next t ∧
        exec (.subReg vf vf) { base with cfg := { base.cfg with flagOperandOrder := .sequential } } = .next u := by
  refine ⟨?_, ?_, _, _, rfl, rfl⟩
  · rintro x y (h | h) <;> cases h; simp
  · rintro x y (h | h) <;> cases h

/-- RandomByteIsMasked: a bit outside the mask. -/
theorem witness_RandomByteIsMasked : (0x0F : Byte).getLsbD 7 = false := by decide

/-! ### Witnesses: index and memory -/

/-- FontAddress. -/
theorem witness_FontAddress : base.cfg.wf = true := by decide

/-- DecimalDigitsAreStored, each clause at its boundary. -/
theorem witness_DecimalDigitsAreStored :
    ({ base with i := 0xFFD } : State).i.toNat + 2 < 4096 ∧
      ({ base with i := 0xFFD } : State).mem.wf base.cfg = true ∧
      4096 ≤ ({ base with i := 0xFFE } : State).i.toNat + 2 := by decide

/-- RegistersAreStored, RegistersAreLoaded and StoredBytesAreFetched, each clause at its boundary. -/
theorem witness_RegistersAreStored :
    ({ base with i := 0xFF0 } : State).i.toNat + (15 : Reg).toNat < 4096 ∧
      ({ base with i := 0xFF0 } : State).mem.wf base.cfg = true ∧ (15 : Reg).toNat ≤ (15 : Reg).toNat ∧
      4096 ≤ ({ base with i := 0xFF1 } : State).i.toNat + (15 : Reg).toNat := by decide

/-- StoredBytesAreFetched: the last word of memory is stored and the pc is at it. -/
theorem witness_StoredBytesAreFetched :
    (({ base with i := 0xFF0, pc := 0xFFE } : State).mem.wf base.cfg = true ∧
        ({ base with i := 0xFF0, pc := 0xFFE } : State).i.toNat + (15 : Reg).toNat < 4096 ∧
        (14 : Reg).toNat + 1 ≤ (15 : Reg).toNat) ∧
      ∃ t, exec (.storeRegs 15) { base with i := 0xFF0, pc := 0xFFE } = .next t ∧ t.pc.toNat = 0xFF0 + (14 : Reg).toNat :=
  ⟨by decide, _, rfl, by decide⟩

/-! ### Witnesses: keys -/

/-- KeySkips: the largest key index, an index above it under each policy. -/
theorem witness_KeySkips :
    ((regs [(5, 0x0F)] base).reg 5).toNat ≤ 15 ∧ lowNibble.keyIndexPolicy = .lowNibble ∧
      15 < ((regs [(5, 0x10)] base).reg 5).toNat ∧ (regs [(5, 0x10)] base).cfg.keyIndexPolicy = .fatal := by decide

/-- KeyWaitIsEntered: not paused. -/
theorem witness_KeyWaitIsEntered : base.paused = false := by decide

/-! ### Witnesses: rules about all instructions -/

/-- FatalConditionsAreThoseListed and FatalConditionsArePrecise: each condition just met, from a live state. -/
theorem witness_FatalConditions :
    base.status = .live ∧ base.stack.length ≤ base.cfg.stackDepth ∧
      (ran (.drw 0 1 2) { base with i := 0xFFF }).map (fun t => t.status) = some (.fatal (.memReadOutOfRange 4096)) ∧
      (ran (.loadRegs 15) { base with i := 0xFF1 }).map (fun t => t.status) = some (.fatal (.memReadOutOfRange 4096)) ∧
      (ran (.ldBcd 0) { base with i := 0xFFE }).map (fun t => t.status) = some (.fatal (.memWriteOutOfRange 4096)) ∧
      (ran (.storeRegs 15) { base with i := 0xFF1 }).map (fun t => t.status) = some (.fatal (.memWriteOutOfRange 4096)) ∧
      (ran .ret base).map (fun t => t.status) = some (.fatal .stackUnderflow) ∧
      (ran (.call 0) { base with stack := List.replicate 16 0 }).map (fun t => t.status) = some (.fatal .stackOverflow) ∧
      (ran (.sknp 0) (regs [(0, 0x10)] base)).map (fun t => t.status) = some (.fatal (.keyIndexOutOfRange 0x10)) := by
  decide

/-- The same statements: the same instructions one short of the condition. -/
theorem witness_FatalConditions_not :
    (ran (.drw 0 1 1) { base with i := 0xFFF }).map (fun t => t.status) = some .live ∧
      (ran (.loadRegs 15) { base with i := 0xFF0 }).map (fun t => t.status) = some .live ∧
      (ran (.ldBcd 0) { base with i := 0xFFD }).map (fun t => t.status) = some .live ∧
      (ran (.storeRegs 15) { base with i := 0xFF0 }).map (fun t => t.status) = some .live ∧
      (ran (.call 0) { base with stack := List.replicate 15 0 }).map (fun t => t.status) = some .live ∧
      (ran (.sknp 0) (regs [(0, 0x0F)] base)).map (fun t => t.status) = some .live := by decide

/-- FatalConditionsAreThoseListed and FatalConditionsArePrecise: a failed fetch, and a fatal instruction in a step. -/
theorem witness_FatalConditions_step :
    (after { base with pc := 0xFFF }).map (fun t => (t.status, t.pc)) = some (.fatal (.fetchOutOfRange 0xFFF), 0xFFF) ∧
      (after (word 0x00EE { base with pc := 0xFFE })).map (fun t => (t.status, t.pc)) =
        some (.fatal .stackUnderflow, 0x1000) := by decide

/-- InstructionsLeaveHostState, PcAfterEveryInstruction and OnlyListedInstructionsWriteVf: an instruction that answers,
in a live state, and changes VF. -/
theorem witness_OnlyListedInstructionsWriteVf :
    (ran (.ldImm vf 1) base).map (fun t => (t.reg vf, t.status)) = some (1, .live) ∧ base.reg vf ≠ 1 := by decide

/-- OnlyListedInstructionsWriteOtherState: a change of each part. -/
theorem witness_OnlyListedInstructionsWriteOtherState :
    (ran (.ldIndex 1) base).map (fun t => t.i) = some 1 ∧
      (ran (.storeRegs 0) (regs [(0, 1)] { base with i := 0x300 })).map (fun t => t.byteAt 0x300) = some 1 ∧
      (ran .cls { base with fb := setCell base.fb 0 0 true }).map (fun t => cellAt t.fb 0 0) = some false ∧
      (ran (.call 0) base).map (fun t => t.stack) = some [0x200] ∧
      (ran (.ldDt 0) (regs [(0, 1)] base)).map (fun t => t.dt) = some 1 ∧
      (ran (.ldSt 0) (regs [(0, 1)] base)).map (fun t => t.st) = some 1 ∧
      (ran (.ldKey 0) base).map (fun t => t.waiting) = some (some 0) := by decide

/-- PcAfterEveryInstruction: an invalid word in a step. -/
theorem witness_PcAfterEveryInstruction :
    base.phase = .slots (0 + 1) ∧ base.running = true ∧ base.fetch = some 0x0000 ∧ decodeWord base.cfg 0x0000 = none ∧
      (after base).map (fun t => t.pc) = some 0x202 := by decide

/-- HaltLoopPersists: in a slot, and at a tick's start. -/
theorem witness_HaltLoopPersists :
    atEnd.haltLoop ∧ (∃ t, step atEnd = .next t) ∧
      ({ atEnd with phase := .between, calls := [.tick (key 7) none] } : State).haltLoop ∧
      ∃ t, step { atEnd with phase := .between, calls := [.tick (key 7) none] } = .next t :=
  ⟨⟨rfl, 0xFFE, 0x1FFE, by decide, by decide, by decide⟩, ⟨_, rfl⟩,
    ⟨rfl, 0xFFE, 0x1FFE, by decide, by decide, by decide⟩, _, rfl⟩

end Sys2Proof.Tests
end

/-! SUPPORT. The fetch on either side of the end of memory, and the cycle of a running slot by the fetched word
(30_encoding.md R42, R59, 60_exceptions.md R119, R120). -/

namespace Sys2Proof.Machine

section
variable {s : State}

/-! ### The fetch on either side of the end of memory -/

theorem State.fetch_of_lt (h : s.pc.toNat < 0xFFF) :
    s.fetch = some (wordOfBytes (s.byteAt s.pc.toNat) (s.byteAt (s.pc.toNat + 1))) := by
  rw [State.fetch_eq, if_pos (by omega)]

theorem State.fetch_of_ge (h : 0xFFF ≤ s.pc.toNat) : s.fetch = none := by
  rw [State.fetch_eq, if_neg (by omega)]

/-! ### A cycle, by what was fetched -/

theorem State.cycle_of_fetch_none (hf : s.fetch = none) :
    s.cycle = .next (s.raiseFatal (.fetchOutOfRange s.pc)) := by simp [State.cycle, hf]

theorem State.cycle_of_invalid {w : Word} (hf : s.fetch = some w) (hd : decodeWord s.cfg w = none) :
    s.cycle = .next (s.advance.logInvalid w) := by simp [State.cycle, hf, hd]

theorem State.cycle_of_valid {w : Word} {i : Instr} (hf : s.fetch = some w) (hd : decodeWord s.cfg w = some i) :
    s.cycle = exec i s.advance := by simp [State.cycle, hf, hd]

/-- A slot of a running instance is a cycle on the state with that slot used up (R59, R127). -/
theorem step_running {k : Nat} (hp : s.phase = .slots (k + 1)) (hr : s.running = true) :
    step s = State.cycle { s with phase := .slots k } := by
  have hr' : ({ s with phase := .slots k } : State).running = true := hr
  rw [step_slot hp, State.slot_run hr']

end

/-! ### The frame of a fatal condition -/

/-- A fatal condition in a slot changes the status and the place in the tick only (R118, R119). -/
theorem frameExcept_raiseFatal (s : State) (p : Phase) (r : FatalReason) (stored : Nat → Prop) :
    FrameExcept s (State.raiseFatal { s with phase := p } r) [] [.status, .phase] stored := by
  simp [FrameExcept, State.reg, State.byteAt]

end Sys2Proof.Machine

/-! SUPPORT. The fetch of a running slot (R42, R119). -/

namespace Sys2Proof.Proofs

open Sys2Proof Sys2Proof.Machine

/-- The step on a fetched word: the decoded instruction is executed, or the word is logged (R59, R120). -/
theorem step_of_fetch {s : State} {k : Nat} {w : Word} (hp : s.phase = .slots (k + 1)) (hr : s.running = true)
    (hf : s.fetch = some w) :
    (∀ i, decodeWord s.cfg w = some i → step s = exec i { s with phase := .slots k, pc := s.pc + 2 }) ∧
    (decodeWord s.cfg w = none →
      step s = .next { s with phase := .slots k, pc := s.pc + 2, log := s.log ++ [w] }) := by
  rw [step_running hp hr]
  have hf' : ({ s with phase := .slots k } : State).fetch = some w := hf
  exact ⟨fun _ hd => State.cycle_of_valid hf' hd, fun hd => State.cycle_of_invalid hf' hd⟩

/-- The step whose fetch fails (R119). -/
theorem step_of_fetch_none {s : State} {k : Nat} (hp : s.phase = .slots (k + 1)) (hr : s.running = true)
    (hf : s.fetch = none) :
    step s = .next (State.raiseFatal { s with phase := .slots k } (.fetchOutOfRange s.pc)) := by
  have hf' : ({ s with phase := .slots k } : State).fetch = none := hf
  rw [step_running hp hr, State.cycle_of_fetch_none hf']

/-- Settles O7, by the two sides of the end of memory. -/
theorem fetchIsBigEndianOrFatal : Obligations.FetchIsBigEndianOrFatal := by
  intro s k hp hr
  constructor
  · intro hpc
    have hf := State.fetch_of_lt hpc
    obtain ⟨hvalid, hinvalid⟩ := step_of_fetch hp hr hf
    refine ⟨_, ?high, ?low, hf, ?step⟩
    case high => rw [← toNat_highByte, highByte_wordOfBytes]
    case low => rw [← toNat_lowByte, lowByte_wordOfBytes]
    case step =>
      split
      next i hd => exact hvalid i hd
      next hd => exact hinvalid hd
  · intro hpc
    exact ⟨_, step_of_fetch_none hp hr (State.fetch_of_ge hpc), rfl, rfl, frameExcept_raiseFatal ..⟩

end Sys2Proof.Proofs

/-! SUPPORT. Which words a row of the opcode map selects, by the fields its mask examines (30_encoding.md R58, R67). -/

namespace Sys2Proof

section
variable {c : Config} {w v : Word}

/-- A row that examines the whole word. -/
theorem selects_FFFF_iff : OpcodeRow.selects ⟨0xFFFF, v⟩ w = true ↔ w = v := by
  rw [OpcodeRow.selects, beq_iff_eq, show (0xFFFF : Word) = BitVec.allOnes 16 from rfl, BitVec.and_allOnes]

/-- A row that examines the major opcode. -/
theorem selects_F000_iff (hv : v.toNat % 0x1000 = 0) :
    OpcodeRow.selects ⟨0xF000, v⟩ w = true ↔ (fieldB1 w).toNat = v.toNat / 0x1000 := by
  rw [OpcodeRow.selects_iff, toNat_and_F000, toNat_fieldB1]; dsimp only; omega

/-- A row that examines the major opcode and the low nibble. -/
theorem selects_F00F_iff :
    OpcodeRow.selects ⟨0xF00F, v⟩ w = true ↔
      (fieldB1 w).toNat = v.toNat / 0x1000 ∧ (fieldN w).toNat = v.toNat % 0x1000 := by
  rw [OpcodeRow.selects_iff, toNat_and_F00F, toNat_fieldB1, toNat_fieldN]; dsimp only; omega

/-- A row that examines the major opcode and the low byte. -/
theorem selects_F0FF_iff :
    OpcodeRow.selects ⟨0xF0FF, v⟩ w = true ↔
      (fieldB1 w).toNat = v.toNat / 0x1000 ∧ (fieldKk w).toNat = v.toNat % 0x1000 := by
  rw [OpcodeRow.selects_iff, toNat_and_F0FF, toNat_fieldB1, toNat_fieldKk]; dsimp only; omega

theorem skipNibbleOk_iff {n : Nibble} :
    skipNibbleOk c n = true ↔ (c.strictSkipRegDecode = true → n.toNat = 0) := by
  simp [skipNibbleOk, BitVec.toNat_eq, imp_iff_not_or]

/-- A row of a register skip: the strict mask asks of the low nibble what the decoder asks (R65). -/
theorem selects_skipMask_iff (hv : v.toNat % 0x1000 = 0) :
    OpcodeRow.selects ⟨if c.strictSkipRegDecode then 0xF00F else 0xF000, v⟩ w = true ↔
      (fieldB1 w).toNat = v.toNat / 0x1000 ∧ skipNibbleOk c (fieldN w) = true := by
  rw [skipNibbleOk_iff]
  cases c.strictSkipRegDecode
  case false => simpa using selects_F000_iff hv
  case true => simpa [hv] using selects_F00F_iff (w := w) (v := v)

end

end Sys2Proof

/-! SUPPORT. The decoder and the rows of the opcode map (30_encoding.md R60 to R67). -/

namespace Sys2Proof.Proofs

open Sys2Proof

section
variable {c : Config} {w : Word} {i : Instr}

/-! ### The row of a decoded instruction selects the word, family by family -/

theorem selects_of_decodeFamily0 (h : decodeFamily0 w = some i) : (opcodeRow c i).selects w = true := by
  unfold decodeFamily0 at h
  split at h <;> cases h
  all_goals exact selects_FFFF_iff.2 (BitVec.eq_of_toNat_eq ‹_›)

theorem selects_of_decodeFamily8 (hb : (fieldB1 w).toNat = 0x8) (h : decodeFamily8 w = some i) :
    (opcodeRow c i).selects w = true := by
  unfold decodeFamily8 at h
  split at h <;> cases h
  all_goals exact selects_F00F_iff.2 ⟨hb, ‹_›⟩

theorem selects_of_decodeFamilyE (hb : (fieldB1 w).toNat = 0xE) (h : decodeFamilyE w = some i) :
    (opcodeRow c i).selects w = true := by
  unfold decodeFamilyE at h
  split at h <;> cases h
  all_goals exact selects_F0FF_iff.2 ⟨hb, ‹_›⟩

theorem selects_of_decodeFamilyF (hb : (fieldB1 w).toNat = 0xF) (h : decodeFamilyF w = some i) :
    (opcodeRow c i).selects w = true := by
  unfold decodeFamilyF at h
  split at h <;> cases h
  all_goals exact selects_F0FF_iff.2 ⟨hb, ‹_›⟩

theorem decodeRegSkip_eq_some {build : Reg → Reg → Nibble → Instr} :
    decodeRegSkip c w build = some i ↔
      skipNibbleOk c (fieldN w) = true ∧ build (fieldX w) (fieldY w) (fieldN w) = i := by
  simp [decodeRegSkip]

/-- The row of the decoded instruction selects the word (R60, R67). -/
theorem selects_of_decodeWord (h : decodeWord c w = some i) : (opcodeRow c i).selects w = true := by
  unfold decodeWord at h
  split at h
  case h_1 => exact selects_of_decodeFamily0 h
  case h_6 hb | h_10 hb =>
    obtain ⟨hn, rfl⟩ := decodeRegSkip_eq_some.1 h
    exact (selects_skipMask_iff rfl).2 ⟨hb, hn⟩
  case h_9 hb => exact selects_of_decodeFamily8 hb h
  case h_15 hb => exact selects_of_decodeFamilyE hb h
  case h_16 =>
    have hb : (fieldB1 w).toNat = 0xF := by
      have := (fieldB1 w).isLt
      simp only [imp_false] at *
      omega
    exact selects_of_decodeFamilyF hb h
  all_goals
    cases h
    exact (selects_F000_iff rfl).2 ‹_›

/-! ### A row that selects the word is the row of the instruction decoded -/

/-- A word that a row selects decodes to an instruction of that row: what the mask examines is all that the dispatch
reads (R60 to R65, R67). -/
theorem decodeWord_row_of_selects (h : (opcodeRow c i).selects w = true) :
    (decodeWord c w).map (opcodeRow c) = some (opcodeRow c i) := by
  cases i with
  | cls | ret =>
    obtain rfl := selects_FFFF_iff.1 h
    rfl
  | jp | call | seImm | sneImm | ldImm | addImm | ldIndex | jpV0 | rnd | drw =>
    have hb := (selects_F000_iff rfl).1 h
    simp [decodeWord, hb, opcodeRow]
  | seReg | sneReg =>
    obtain ⟨hb, hn⟩ := (selects_skipMask_iff rfl).1 h
    simp [decodeWord, hb, decodeRegSkip, hn, opcodeRow]
  | ldReg | orReg | andReg | xorReg | addReg | subReg | shr | subnReg | shl =>
    obtain ⟨hb, hn⟩ := selects_F00F_iff.1 h
    simp [decodeWord, hb, decodeFamily8, hn, opcodeRow]
  | skp | sknp =>
    obtain ⟨hb, hk⟩ := selects_F0FF_iff.1 h
    simp [decodeWord, hb, decodeFamilyE, hk, opcodeRow]
  | ldFromDt | ldKey | ldDt | ldSt | addIndex | ldFont | ldBcd | storeRegs | loadRegs =>
    obtain ⟨hb, hk⟩ := selects_F0FF_iff.1 h
    simp [decodeWord, hb, decodeFamilyF, hk, opcodeRow]

end

/-- Settles O3, by the branches of the dispatch one way and the rows of the opcode map the other. -/
theorem decodeFollowsOpcodeMap : Obligations.DecodeFollowsOpcodeMap := fun _ _ =>
  ⟨fun _ h => selects_of_decodeWord h, fun _ h => Option.map_eq_some_iff.1 (decodeWord_row_of_selects h)⟩

end Sys2Proof.Proofs

/-! SUPPORT. The frame of a screen write (30_encoding.md R33, 40_display.md R71). -/

namespace Sys2Proof.Machine

/-- Replacing the framebuffer changes the framebuffer only. -/
theorem frameExcept_setFb (s : State) (f : Framebuffer) (stored : Nat → Prop) :
    FrameExcept s (s.setFb f) [] [.fb] stored := by
  simp [FrameExcept]

end Sys2Proof.Machine

namespace Sys2Proof.Proofs

open Sys2Proof Sys2Proof.Machine

/-- Settles O25: the cleared screen is blank in every cell, and it is all that CLS writes. -/
theorem clearScreenClearsEveryCell : Obligations.ClearScreenClearsEveryCell := fun s =>
  ⟨rfl, s.setFb clearedFb, rfl, fun x y _ _ => cellAt_clearedFb x y, frameExcept_setFb ..⟩

end Sys2Proof.Proofs

/-! SUPPORT. The decoder on the word of an instruction (30_encoding.md R60 to R67). -/

namespace Sys2Proof

/-- The word of an instruction decodes to it, unless the strict decode refuses its low nibble (R65, R67). -/
theorem decodeWord_encode (c : Config) (i : Instr) :
    decodeWord c (encode i) = if WellFormed c i then some i else none := by
  cases i with
  | cls | ret => rfl
  | jp | call | seImm | sneImm | ldImm | addImm | ldIndex | jpV0 | rnd | drw => simp [encode, decodeWord, WellFormed]
  | seReg | sneReg =>
    simp [encode, decodeWord, decodeRegSkip]
    rfl
  | ldReg | orReg | andReg | xorReg | addReg | subReg | shr | subnReg | shl =>
    simp [encode, decodeWord, decodeFamily8, WellFormed]
  | skp | sknp => simp [encode, decodeWord, decodeFamilyE, WellFormed]
  | ldFromDt | ldKey | ldDt | ldSt | addIndex | ldFont | ldBcd | storeRegs | loadRegs =>
    simp [encode, decodeWord, decodeFamilyF, WellFormed]

theorem decodeWord_encode_of_wellFormed {c : Config} {i : Instr} (h : WellFormed c i = true) :
    decodeWord c (encode i) = some i := by
  rw [decodeWord_encode, if_pos h]

theorem decodeWord_encode_of_not_wellFormed {c : Config} {i : Instr} (h : WellFormed c i = false) :
    decodeWord c (encode i) = none := by
  rw [decodeWord_encode, h, if_neg Bool.false_ne_true]

end Sys2Proof

/-! SUPPORT. What RET and CALL do in each of their two cases, and the frames of a stack write with a jump and of a
skip (41_control_flow.md R77 to R85, 60_exceptions.md R119). -/

namespace Sys2Proof.Machine

section
variable {s : State} {i : Instr}

/-! ### Frames -/

/-- A write of the stack and the pc changes these two only. -/
theorem frameExcept_setStack_setPc (s : State) (l : List Word) (a : Word) (stored : Nat → Prop) :
    FrameExcept s ((s.setStack l).setPc a) [] [.pc, .stack] stored := by
  simp [FrameExcept]

/-- A skip changes the pc only (R85). -/
theorem frameExcept_skipIf (s : State) (b : Bool) (stored : Nat → Prop) :
    FrameExcept s (s.skipIf b) [] [.pc] stored := by
  simp [FrameExcept]

/-! ### A fatal condition and a skip, as the statements have them -/

/-- An instruction that answers the state with a fatal condition taken raises it (R118, R119). -/
theorem raisesFatal_of_exec {r : FatalReason} (h : exec i s = .next (s.raiseFatal r)) : RaisesFatal i s r :=
  ⟨_, h, rfl, rfl, frameExcept_raiseFatal s s.phase r nowhere⟩

/-- An instruction that skips on a condition moves the pc 2 further when it holds, and does nothing else (R85). -/
theorem skips_of_exec {b : Bool} {p : Prop} [Decidable p] (h : exec i s = .next (s.skipIf b)) (hb : b = true ↔ p) :
    ∃ t, exec i s = .next t ∧ t.pc = (if p then s.pc + 2 else s.pc) ∧ FrameExcept s t [] [.pc] nowhere :=
  ⟨_, h, by simp only [State.skipIf_pc, hb], frameExcept_skipIf ..⟩

/-! ### RET and CALL -/

/-- RET on a stack with a top entry (R77). -/
theorem exec_ret_of_concat {l : List Word} {a : Word} (h : s.stack = l ++ [a]) :
    exec .ret s = .next ((s.setStack l).setPc a) := by
  simp [exec, execRet, h]

/-- RET on an empty stack (R77). -/
theorem exec_ret_of_nil (h : s.stack = []) : exec .ret s = .next (s.raiseFatal .stackUnderflow) := by
  simp [exec, execRet, h]

/-- CALL with room on the stack (R79). -/
theorem exec_call_of_lt (nnn : Imm12) (h : s.stack.length < s.cfg.stackDepth) :
    exec (.call nnn) s = .next ((s.setStack (s.stack ++ [s.pc])).setPc (immAddr nnn)) :=
  if_neg (Nat.not_le.2 h)

/-- CALL with a full stack (R79). -/
theorem exec_call_of_ge (nnn : Imm12) (h : s.cfg.stackDepth ≤ s.stack.length) :
    exec (.call nnn) s = .next (s.raiseFatal .stackOverflow) :=
  if_pos h

end

theorem toNat_immAddr (nnn : Imm12) : (immAddr nnn).toNat = nnn.toNat := by
  have := nnn.isLt
  simp [immAddr]; omega

end Sys2Proof.Machine

/-! The obligations of 41_control_flow.md. -/

namespace Sys2Proof.Proofs

open Sys2Proof Sys2Proof.Machine

/-- Settles O28, by the two cases of the stack; a call leaves a stack whose top is the pc it was made at. -/
theorem returnPopsTheStack : Obligations.ReturnPopsTheStack := by
  intro s
  refine ⟨decodeWord_encode_of_wellFormed (i := .ret) rfl, ?pop, ?underflow, ?afterCall⟩
  case pop => exact fun l a h => ⟨_, exec_ret_of_concat h, rfl, rfl, frameExcept_setStack_setPc ..⟩
  case underflow => exact fun h => raisesFatal_of_exec (exec_ret_of_nil h)
  case afterCall => exact fun nnn h => ⟨_, _, exec_call_of_lt nnn h, exec_ret_of_concat rfl, rfl⟩

/-- Settles O30, by the two cases of the stack's room. -/
theorem callPushesPc : Obligations.CallPushesPc := by
  intro s nnn
  refine ⟨decodeWord_encode_of_wellFormed (i := .call nnn) rfl, ?push, ?overflow⟩
  case push =>
    exact fun h => ⟨_, exec_call_of_lt nnn h, toNat_immAddr nnn, rfl, frameExcept_setStack_setPc ..⟩
  case overflow => exact fun h => raisesFatal_of_exec (exec_call_of_ge nnn h.ge)

/-- Settles O32: both are skips, on the condition and its negation. -/
theorem immediateSkips : Obligations.ImmediateSkips := fun _ x kk =>
  ⟨decodeWord_encode_of_wellFormed (i := .seImm x kk) rfl, decodeWord_encode_of_wellFormed (i := .sneImm x kk) rfl,
    skips_of_exec rfl beq_iff_eq, skips_of_exec rfl bne_iff_ne⟩

/-- Settles O33: the decoder admits a low nibble exactly when the instruction with it is well-formed, and both
instructions are skips, on the condition and its negation. -/
theorem registerSkips : Obligations.RegisterSkips := by
  intro s x y n
  refine ⟨?admitted, ?refused, skips_of_exec rfl beq_iff_eq, skips_of_exec rfl bne_iff_ne⟩
  case admitted =>
    intro h
    have hn : skipNibbleOk s.cfg n = true := by simpa [skipNibbleOk] using h
    exact ⟨decodeWord_encode_of_wellFormed (i := .seReg x y n) hn,
      decodeWord_encode_of_wellFormed (i := .sneReg x y n) hn⟩
  case refused =>
    intro hs h
    have hn : skipNibbleOk s.cfg n = false := by simpa [skipNibbleOk, hs] using h
    exact ⟨decodeWord_encode_of_not_wellFormed (i := .seReg x y n) hn,
      decodeWord_encode_of_not_wellFormed (i := .sneReg x y n) hn⟩

end Sys2Proof.Proofs

/-! SUPPORT. The word of an instruction as a number, the frames of register writes, and what an operation that writes a
flag and then its result leaves in VF and in its destination (30_encoding.md R58, R67, 42_alu.md R98). -/

namespace Sys2Proof.Machine

section
variable {c : Config} {s : State} {i : Instr} {x y : Reg}

/-! ### The word of an instruction, as a number -/

/-- A well-formed instruction of family 0x8 is read from the number of its four nibbles, however they are summed. -/
theorem encodedAs_family8 (n : Nibble) (hi : encode i = layXYN 0x8 x y n) (hw : WellFormed c i = true) :
    EncodedAs c (0x8000 + n.toNat + x.toNat * 0x100 + y.toNat * 0x10) i := by
  have hn : 0x8000 + n.toNat + x.toNat * 0x100 + y.toNat * 0x10 =
      0x8 * 0x1000 + x.toNat * 0x100 + y.toNat * 0x10 + n.toNat := by omega
  rw [EncodedAs, hn, ← decodeWord_encode_of_wellFormed hw, hi]
  rfl

/-! ### Frames -/

/-- A register write changes that register only (R18). -/
theorem frameExcept_setReg (s : State) (x : Reg) (b : Byte) (stored : Nat → Prop) :
    FrameExcept s (s.setReg x b) [x] [] stored := by
  simp +contextual [FrameExcept]

/-- Two register writes change those registers only. -/
theorem frameExcept_setReg_setReg (s : State) (x z : Reg) (a b : Byte) (stored : Nat → Prop) :
    FrameExcept s ((s.setReg z a).setReg x b) [x, z] [] stored := by
  simp +contextual [FrameExcept]

/-- A flag-setting operation changes its destination and VF only (R98). -/
theorem frameExcept_flagThenResult (s : State) (x y : Reg) (flag result : Byte → Byte → Byte) (stored : Nat → Prop) :
    FrameExcept s (s.flagThenResult x y flag result) [x, vf] [] stored := by
  have hreg : ∀ r, r ∉ [x, vf] → (s.flagThenResult x y flag result).reg r = s.reg r := by
    intro r hr
    obtain ⟨hx, hvf⟩ := not_or.1 (mt List.mem_pair.2 hr)
    exact s.reg_flagThenResult_other x y r flag result hx hvf
  refine ⟨hreg, ?_⟩
  simp

/-! ### VF and the destination after a flag-setting operation (R98) -/

/-- VF holds the flag, under either order, when it is not the destination. -/
theorem State.reg_flagThenResult_vf (flag result : Byte → Byte → Byte) (hx : x ≠ vf) :
    (s.flagThenResult x y flag result).reg vf = flag (s.reg x) (s.reg y) := by
  cases h : s.cfg.flagOperandOrder
  case latched => rw [s.reg_flagThenResult_latched h, if_neg hx.symm, if_pos rfl]
  case sequential => rw [s.reg_flagThenResult_sequential h, if_neg hx.symm, if_pos rfl]

/-- Latched, the destination holds the result of the operands as they were. -/
theorem State.reg_flagThenResult_dst_latched (flag result : Byte → Byte → Byte)
    (h : s.cfg.flagOperandOrder = .latched) :
    (s.flagThenResult x y flag result).reg x = result (s.reg x) (s.reg y) := by
  rw [s.reg_flagThenResult_latched h, if_pos rfl]

/-- Sequential, it holds the result of the operands with VF replaced by the flag. -/
theorem State.reg_flagThenResult_dst_sequential (flag result : Byte → Byte → Byte)
    (h : s.cfg.flagOperandOrder = .sequential) :
    (s.flagThenResult x y flag result).reg x =
      result (if x = vf then flag (s.reg x) (s.reg y) else s.reg x)
        (if y = vf then flag (s.reg x) (s.reg y) else s.reg y) := by
  rw [s.reg_flagThenResult_sequential h, if_pos rfl]

/-- The orders agree on the destination when VF is no operand. -/
theorem State.reg_flagThenResult_dst_of_ne (flag result : Byte → Byte → Byte) (hx : x ≠ vf) (hy : y ≠ vf) :
    (s.flagThenResult x y flag result).reg x = result (s.reg x) (s.reg y) := by
  cases h : s.cfg.flagOperandOrder
  case latched => exact State.reg_flagThenResult_dst_latched flag result h
  case sequential => rw [State.reg_flagThenResult_dst_sequential flag result h, if_neg hx, if_neg hy]

/-! ### Flag-setting instructions, by the numbers their flag and result are -/

/-- An instruction that writes a flag and then its result, whose flag and result are the numbers `F` and `R` of the
numbers of its operands. -/
theorem flagThenResult_of_exec {flag result : Byte → Byte → Byte} (F R : Nat → Nat → Nat)
    (hF : ∀ a b, (flag a b).toNat = F a.toNat b.toNat) (hR : ∀ a b, (result a b).toNat = R a.toNat b.toNat)
    (h : exec i s = .next (s.flagThenResult x y flag result)) :
    ∃ t, exec i s = .next t ∧ FrameExcept s t [x, vf] [] nowhere ∧
      ∀ f, f = F (s.reg x).toNat (s.reg y).toNat →
        (x ≠ vf → (t.reg vf).toNat = f) ∧
        (s.cfg.flagOperandOrder = .latched → (t.reg x).toNat = R (s.reg x).toNat (s.reg y).toNat) ∧
        (s.cfg.flagOperandOrder = .sequential →
          (t.reg x).toNat =
            R (if x = vf then f else (s.reg x).toNat) (if y = vf then f else (s.reg y).toNat)) := by
  refine ⟨_, h, frameExcept_flagThenResult .., ?_⟩
  rintro f rfl
  refine ⟨fun hx => ?vf, fun ho => ?latched, fun ho => ?sequential⟩
  case vf => rw [State.reg_flagThenResult_vf _ _ hx, hF]
  case latched => rw [State.reg_flagThenResult_dst_latched _ _ ho, hR]
  case sequential =>
    rw [State.reg_flagThenResult_dst_sequential _ _ ho, hR, apply_ite BitVec.toNat, apply_ite BitVec.toNat, hF]

/-- The same for an instruction of one operand: with VF as that operand, the sequential store reads the flag. -/
theorem unaryFlagThenResult_of_exec {flag result : Byte → Byte} (F R : Nat → Nat)
    (hF : ∀ a, (flag a).toNat = F a.toNat) (hR : ∀ a, (result a).toNat = R a.toNat)
    (h : exec i s = .next (s.flagThenResult x x (fun a _ => flag a) (fun a _ => result a))) :
    ∃ t, exec i s = .next t ∧ FrameExcept s t [x, vf] [] nowhere ∧
      (x ≠ vf → (t.reg vf).toNat = F (s.reg x).toNat ∧ (t.reg x).toNat = R (s.reg x).toNat) ∧
      (x = vf → s.cfg.flagOperandOrder = .latched → (t.reg vf).toNat = R (s.reg vf).toNat) ∧
      (x = vf → s.cfg.flagOperandOrder = .sequential → (t.reg vf).toNat = R (F (s.reg vf).toNat)) := by
  refine ⟨_, h, frameExcept_flagThenResult .., fun hx => ⟨?flag, ?result⟩, ?latched, ?sequential⟩
  case flag => rw [State.reg_flagThenResult_vf _ _ hx, hF]
  case result => rw [State.reg_flagThenResult_dst_of_ne _ _ hx hx, hR]
  case latched =>
    rintro rfl ho
    rw [State.reg_flagThenResult_dst_latched _ _ ho, hR]
  case sequential =>
    rintro rfl ho
    rw [State.reg_flagThenResult_dst_sequential _ _ ho, if_pos rfl, hR, hF]

end

/-! ### The flags and results as numbers (R93 to R99) -/

theorem carryFlag_eq (a b : Byte) : carryFlag a b = if 255 < a.toNat + b.toNat then 1 else 0 := by
  simp [carryFlag, flagByte]

theorem toNat_noBorrowFlag (a b : Byte) : (noBorrowFlag a b).toNat = if b.toNat ≤ a.toNat then 1 else 0 := by
  simp [noBorrowFlag, flagByte, apply_ite BitVec.toNat]

theorem toNat_lsbFlag (a : Byte) : (lsbFlag a).toNat = a.toNat % 2 := by
  simp [lsbFlag]

theorem toNat_msbFlag (a : Byte) : (msbFlag a).toNat = a.toNat / 128 := by
  have := a.isLt
  simp [msbFlag, Nat.shiftRight_eq_div_pow]; omega

/-- The difference modulo 256, with the borrow added first so that no subtraction of naturals is cut at 0 (R99). -/
theorem toNat_byte_sub (a b : Byte) : (a - b).toNat = (a.toNat + 256 - b.toNat) % 256 := by
  have := b.isLt
  rw [BitVec.toNat_sub]; omega

theorem toNat_byte_shiftRight_one (a : Byte) : (a >>> 1).toNat = a.toNat / 2 := by
  rw [BitVec.toNat_ushiftRight, Nat.shiftRight_eq_div_pow]

theorem toNat_byte_shiftLeft_one (a : Byte) : (a <<< 1).toNat = a.toNat * 2 % 256 := by
  rw [BitVec.toNat_shiftLeft, Nat.shiftLeft_eq]

end Sys2Proof.Machine

/-! The obligations of 42_alu.md. -/

namespace Sys2Proof.Proofs

open Sys2Proof Sys2Proof.Machine

/-- Settles O34: both are one register write. -/
theorem registerLoads : Obligations.RegisterLoads := fun s x _ kk =>
  ⟨decodeWord_encode_of_wellFormed (i := .ldImm x kk) rfl, encodedAs_family8 0x0 rfl rfl,
    ⟨_, rfl, (s.reg_setReg x x _).trans (if_pos rfl), frameExcept_setReg ..⟩,
    ⟨_, rfl, (s.reg_setReg x x _).trans (if_pos rfl), frameExcept_setReg ..⟩⟩

/-- Settles O35: one register write, of a sum of bytes. -/
theorem addImmediate : Obligations.AddImmediate := by
  intro s x kk
  refine ⟨decodeWord_encode_of_wellFormed (i := .addImm x kk) rfl, _, rfl, ?sum, frameExcept_setReg ..⟩
  case sum => rw [State.reg_setReg, if_pos rfl, BitVec.toNat_add]

/-- Settles O37: the sum is the last of the two writes, so it is what `Vx` holds whichever register that is. -/
theorem addSetsCarry : Obligations.AddSetsCarry := by
  intro s x y
  refine ⟨encodedAs_family8 0x4 rfl rfl, _, rfl, ?sum, ?carry, frameExcept_setReg_setReg ..⟩
  case sum => rw [State.reg_setReg, if_pos rfl, BitVec.toNat_add]
  case carry =>
    intro hx
    rw [State.reg_setReg, if_neg hx.symm, State.reg_setReg, if_pos rfl, carryFlag_eq]

/-- Settles O38: both write the no-borrow flag and then the difference, SUBN with its operands exchanged. -/
theorem subtractionsSetNoBorrow : Obligations.SubtractionsSetNoBorrow := fun _ _ _ =>
  ⟨encodedAs_family8 0x5 rfl rfl, encodedAs_family8 0x7 rfl rfl,
    flagThenResult_of_exec (fun a b => if b ≤ a then 1 else 0) (fun a b => (a + 256 - b) % 256)
      toNat_noBorrowFlag toNat_byte_sub rfl,
    flagThenResult_of_exec (fun a b => if a ≤ b then 1 else 0) (fun a b => (b + 256 - a) % 256)
      (fun a b => toNat_noBorrowFlag b a) (fun a b => toNat_byte_sub b a) rfl⟩

/-- Settles O39: with VF shifted sequentially, what is halved is a bit, and nothing is left. -/
theorem shiftRightDropsBitZero : Obligations.ShiftRightDropsBitZero := by
  intro s x y
  obtain ⟨t, ht, hframe, hother, hlatched, hsequential⟩ :=
    unaryFlagThenResult_of_exec (i := .shr x y) (s := s) (· % 2) (· / 2) toNat_lsbFlag toNat_byte_shiftRight_one rfl
  refine ⟨encodedAs_family8 0x6 rfl rfl, t, ht, hframe, hother, hlatched, fun hx ho => ?_⟩
  have hbit : (s.reg vf).toNat % 2 / 2 = 0 := by omega
  exact (hsequential hx ho).trans hbit

/-- Settles O40: with VF shifted sequentially, what is doubled is a bit, so nothing is lost modulo 256. -/
theorem shiftLeftDropsBitSeven : Obligations.ShiftLeftDropsBitSeven := by
  intro s x y
  obtain ⟨t, ht, hframe, hother, hlatched, hsequential⟩ :=
    unaryFlagThenResult_of_exec (i := .shl x y) (s := s) (· / 128) (· * 2 % 256) toNat_msbFlag
      toNat_byte_shiftLeft_one rfl
  refine ⟨encodedAs_family8 0xE rfl rfl, t, ht, hframe, hother, hlatched, fun hx ho => ?_⟩
  have hbit : (s.reg vf).toNat / 128 * 2 % 256 = (s.reg vf).toNat / 128 * 2 := by
    have := (s.reg vf).isLt
    omega
  exact (hsequential hx ho).trans hbit

end Sys2Proof.Proofs

/-! SUPPORT. The words of format XKK as numbers, the index after a write, and the frames, the stored bytes and the
registers of the block transfers (30_encoding.md R58, 10_state.md R20, 43_index_memory.md R104 to R108). -/

namespace Sys2Proof.Machine

section
variable {c : Config} {s : State} {i : Instr} {x : Reg}

/-! ### The word of an instruction of format XKK, as a number -/

/-- A well-formed instruction of format XKK is read from the number of its fields, with `x` summed last (R58). -/
theorem encodedAs_xkk (b1 : Nibble) (kk : Byte) (hi : encode i = layXKK b1 x kk) (hw : WellFormed c i = true) :
    EncodedAs c (b1.toNat * 0x1000 + kk.toNat + x.toNat * 0x100) i := by
  rw [EncodedAs, Nat.add_right_comm, ← decodeWord_encode_of_wellFormed hw, hi]
  rfl

/-! ### Frames -/

/-- A write of I changes I only (R20). -/
theorem frameExcept_setIndex (s : State) (n : Nat) (stored : Nat → Prop) :
    FrameExcept s (s.setIndex n) [] [.i] stored := by
  simp [FrameExcept]

/-- A block store changes the bytes of its block only (R106, R108). -/
theorem frameExcept_storeBytes (s : State) (a : Nat) (bs : List Byte) :
    FrameExcept s (s.storeBytes a bs) [] [] (block a bs.length) := by
  have hbytes : ∀ b, ¬ block a bs.length b → (s.storeBytes a bs).byteAt b = s.byteAt b := fun b hb =>
    s.byteAt_storeBytes_other bs (by simp only [block] at hb; omega)
  simpa [FrameExcept] using hbytes

theorem mem_regsTo {r : Reg} : r ∈ regsTo x ↔ r.toNat ≤ x.toNat := by
  have hx := x.isLt
  simp only [regsTo, List.mem_map, List.mem_range]
  constructor
  · rintro ⟨k, hk, rfl⟩
    rw [BitVec.toNat_ofNat]; omega
  · exact fun h => ⟨r.toNat, by omega, by simp⟩

/-- A block load changes V0 to Vx only (R107). -/
theorem frameExcept_loadRegsFrom (s : State) (a : Nat) (x : Reg) (stored : Nat → Prop) :
    FrameExcept s (s.loadRegsFrom a x) (regsTo x) [] stored := by
  simp +contextual [FrameExcept, mem_regsTo]

/-! ### The index after a write -/

/-- An index below the end of memory is written as it is (R20). -/
theorem State.toNat_setIndex_of_lt {n : Nat} (h : n < 4096) : (s.setIndex n).i.toNat = n := by
  simp [Nat.mod_eq_of_lt h]; omega

/-- Under an admitted configuration no byte times 5 reaches past the end of memory from FONT_BASE (R49, R104). -/
theorem fontBase_add_lt (h : c.wf = true) (b : Byte) : c.fontBase + b.toNat * 5 < 4096 := by
  have hb := b.isLt
  simp only [Config.wf, programBase, Bool.and_eq_true, decide_eq_true_eq] at h
  obtain ⟨⟨⟨hfont, -⟩, -⟩, -⟩ := h
  omega

/-! ### The lists stored -/

/-- The three digits as numbers: each is below 256 (R105). -/
theorem toNat_decimalDigits (b : Byte) :
    (decimalDigits b)[0].toNat = b.toNat / 100 ∧ (decimalDigits b)[1].toNat = b.toNat / 10 % 10 ∧
      (decimalDigits b)[2].toNat = b.toNat % 10 := by
  have := b.isLt
  simp [decimalDigits]; omega

end

/-! ### The block transfers on either side of the end of memory (R105 to R108) -/

section
variable {s : State} {x : Reg}

theorem exec_ldBcd_of_lt (h : s.i.toNat + 2 < 4096) :
    exec (.ldBcd x) s = .next (s.storeBytes s.i.toNat (decimalDigits (s.reg x))) :=
  ((execLdBcd_cases x s).resolve_right (by omega)).2

theorem exec_ldBcd_of_ge (h : 4096 ≤ s.i.toNat + 2) :
    exec (.ldBcd x) s = .next (s.raiseFatal (.memWriteOutOfRange 4096)) :=
  ((execLdBcd_cases x s).resolve_left (by omega)).2

theorem exec_storeRegs_of_lt (h : s.i.toNat + x.toNat < 4096) :
    exec (.storeRegs x) s = .next (s.storeBytes s.i.toNat (s.regsUpTo x)) :=
  ((execStoreRegs_cases x s).resolve_right (by omega)).2

theorem exec_storeRegs_of_ge (h : 4096 ≤ s.i.toNat + x.toNat) :
    exec (.storeRegs x) s = .next (s.raiseFatal (.memWriteOutOfRange 4096)) :=
  ((execStoreRegs_cases x s).resolve_left (by omega)).2

theorem exec_loadRegs_of_lt (h : s.i.toNat + x.toNat < 4096) :
    exec (.loadRegs x) s = .next (s.loadRegsFrom s.i.toNat x) :=
  ((execLoadRegs_cases x s).resolve_right (by omega)).2

theorem exec_loadRegs_of_ge (h : 4096 ≤ s.i.toNat + x.toNat) :
    exec (.loadRegs x) s = .next (s.raiseFatal (.memReadOutOfRange 4096)) :=
  ((execLoadRegs_cases x s).resolve_left (by omega)).2

end

end Sys2Proof.Machine

/-! The obligations of 43_index_memory.md. -/

namespace Sys2Proof.Proofs

open Sys2Proof Sys2Proof.Machine

/-- Settles O44: an admitted FONT_BASE is so low that the reduction of the index changes nothing. -/
theorem fontAddress : Obligations.FontAddress := fun s x hcfg =>
  ⟨encodedAs_xkk 0xF 0x29 rfl rfl, _, rfl, State.toNat_setIndex_of_lt (fontBase_add_lt hcfg (s.reg x)),
    frameExcept_setIndex ..⟩

/-- Settles O45, by the two sides of the end of memory. -/
theorem decimalDigitsAreStored : Obligations.DecimalDigitsAreStored := by
  intro s x
  refine ⟨encodedAs_xkk 0xF 0x33 rfl rfl, fun h => ?_, fun h => raisesFatal_of_exec (exec_ldBcd_of_ge h)⟩
  refine ⟨_, exec_ldBcd_of_lt h, frameExcept_storeBytes .., fun hw => ?_⟩
  have hbyte (k : Nat) (hk : k < 3) :
      (s.storeBytes s.i.toNat (decimalDigits (s.reg x))).byteAt (s.i.toNat + k) = (decimalDigits (s.reg x))[k] :=
    State.byteAt_storeBytes_inside hw (decimalDigits (s.reg x)) _ k hk (by rw [length_decimalDigits]; omega)
  have hhundreds := hbyte 0 (by decide)
  rw [Nat.add_zero] at hhundreds
  rw [hhundreds, hbyte 1 (by decide), hbyte 2 (by decide)]
  exact toNat_decimalDigits (s.reg x)

/-- Settles O46, by the two sides of the end of memory. -/
theorem registersAreStored : Obligations.RegistersAreStored := by
  intro s x
  refine ⟨encodedAs_xkk 0xF 0x55 rfl rfl, fun h => ?_, fun h => raisesFatal_of_exec (exec_storeRegs_of_ge h)⟩
  have hlen := s.length_regsUpTo x
  refine ⟨_, exec_storeRegs_of_lt h, hlen ▸ frameExcept_storeBytes .., fun hw k hk => ?_⟩
  have hk' : k.toNat < (s.regsUpTo x).length := by omega
  rw [State.byteAt_storeBytes_inside hw _ _ _ hk' (by omega), State.getElem_regsUpTo]

/-- Settles O47, by the two sides of the end of memory. -/
theorem registersAreLoaded : Obligations.RegistersAreLoaded := by
  intro s x
  refine ⟨encodedAs_xkk 0xF 0x65 rfl rfl, fun h => ?_, fun h => raisesFatal_of_exec (exec_loadRegs_of_ge h)⟩
  refine ⟨_, exec_loadRegs_of_lt h, fun k hk => ?_, frameExcept_loadRegsFrom ..⟩
  rw [State.reg_loadRegsFrom, if_pos hk]

end Sys2Proof.Proofs

/-! SUPPORT. The frames of the timer writes (10_state.md R28). -/

namespace Sys2Proof.Machine

/-- A write of DT changes DT only (R28). -/
theorem frameExcept_setDt (s : State) (b : Byte) (stored : Nat → Prop) :
    FrameExcept s (s.setDt b) [] [.dt] stored := by
  simp [FrameExcept]

/-- A write of ST changes ST only (R28). -/
theorem frameExcept_setSt (s : State) (b : Byte) (stored : Nat → Prop) :
    FrameExcept s (s.setSt b) [] [.st] stored := by
  simp [FrameExcept]

end Sys2Proof.Machine

/-! The obligations of 44_timers_keys.md. -/

namespace Sys2Proof.Proofs

open Sys2Proof Sys2Proof.Machine

/-- Settles O51: each transfer is one write, of a register or of a timer. -/
theorem timerTransfers : Obligations.TimerTransfers := fun s x =>
  ⟨encodedAs_xkk 0xF 0x07 rfl rfl, encodedAs_xkk 0xF 0x15 rfl rfl, encodedAs_xkk 0xF 0x18 rfl rfl,
    ⟨_, rfl, (s.reg_setReg x x _).trans (if_pos rfl), frameExcept_setReg ..⟩,
    ⟨_, rfl, s.setDt_dt (s.reg x), frameExcept_setDt ..⟩,
    ⟨_, rfl, s.setSt_st (s.reg x), frameExcept_setSt ..⟩⟩

end Sys2Proof.Proofs

/-! SUPPORT. The decoder's refusal of two bytes, and the frame of a cycle that logs an invalid word (30_encoding.md R57,
R60, 60_exceptions.md R120). -/

namespace Sys2Proof

/-- Two bytes are refused as an invalid opcode exactly when the word they form decodes to nothing, and it is that word
the refusal names. -/
theorem decode_two_invalid {c : Config} {hi lo : Byte} {w : Word} :
    decode c [hi, lo] = .error (.invalidOpcode w) ↔
      decodeWord c (wordOfBytes hi lo) = none ∧ wordOfBytes hi lo = w := by
  rw [decode_two]; cases decodeWord c (wordOfBytes hi lo) <;> simp

end Sys2Proof

namespace Sys2Proof.Machine

/-- A slot that logs an invalid word changes the log, the pc and the place in the tick only (R120). -/
theorem frameExcept_advance_logInvalid (s : State) (p : Phase) (w : Word) (stored : Nat → Prop) :
    FrameExcept s ((State.advance { s with phase := p }).logInvalid w) [] [.log, .pc, .phase] stored := by
  simp [FrameExcept, State.reg, State.byteAt]

end Sys2Proof.Machine

/-! The obligations of 60_exceptions.md. -/

namespace Sys2Proof.Proofs

open Sys2Proof Sys2Proof.Machine

/-- Settles O8: the two bytes the decoder refuses are the word fetched, so the cycle logs that word; a running instance
is live, and stays so. -/
theorem invalidOpcodeIsLoggedAndSkipped : Obligations.InvalidOpcodeIsLoggedAndSkipped := by
  intro s k w hp hr hpc hdecode
  obtain ⟨hinvalid, rfl⟩ := decode_two_invalid.1 hdecode
  have hstep := (step_of_fetch hp hr (State.fetch_of_lt (by omega))).2 hinvalid
  obtain ⟨hlive, -⟩ := s.running_iff.1 hr
  exact ⟨_, hstep, rfl, rfl, hlive, rfl, frameExcept_advance_logInvalid s (.slots k) _ nowhere⟩

end Sys2Proof.Proofs

/-! SUPPORT. The word of fields that a row of the opcode map fixes (30_encoding.md R58, R67). -/

namespace Sys2Proof

section
variable {c : Config} {w : Word} {i : Instr}

theorem layNNN_fieldNnn {b : Nibble} (hb : (fieldB1 w).toNat = b.toNat) : layNNN b (fieldNnn w) = w := by
  rw [← BitVec.eq_of_toNat_eq hb, layNNN_fields]

theorem layXKK_fieldX_fieldKk {b : Nibble} (hb : (fieldB1 w).toNat = b.toNat) :
    layXKK b (fieldX w) (fieldKk w) = w := by
  rw [← BitVec.eq_of_toNat_eq hb, layXKK_fields]

theorem layXKK_fieldX {b : Nibble} {kk : Byte} (hb : (fieldB1 w).toNat = b.toNat)
    (hk : (fieldKk w).toNat = kk.toNat) : layXKK b (fieldX w) kk = w := by
  rw [← BitVec.eq_of_toNat_eq hk, layXKK_fieldX_fieldKk hb]

theorem layXYN_fieldX_fieldY_fieldN {b : Nibble} (hb : (fieldB1 w).toNat = b.toNat) :
    layXYN b (fieldX w) (fieldY w) (fieldN w) = w := by
  rw [← BitVec.eq_of_toNat_eq hb, layXYN_fields]

theorem layXYN_fieldX_fieldY {b n : Nibble} (hb : (fieldB1 w).toNat = b.toNat)
    (hn : (fieldN w).toNat = n.toNat) : layXYN b (fieldX w) (fieldY w) n = w := by
  rw [← BitVec.eq_of_toNat_eq hn, layXYN_fieldX_fieldY_fieldN hb]

end

end Sys2Proof

/-! The round trips of 30_encoding.md. -/

namespace Sys2Proof.Proofs

open Sys2Proof

section
variable {c : Config} {w : Word} {i : Instr}

/-! ### A decoded instruction's word is the word decoded, family by family -/

theorem encode_of_decodeFamily0 (h : decodeFamily0 w = some i) : encode i = w ∧ WellFormed c i = true := by
  unfold decodeFamily0 at h
  split at h <;> cases h
  all_goals exact ⟨BitVec.eq_of_toNat_eq (Eq.symm ‹_›), rfl⟩

theorem encode_of_decodeFamily8 (hb : (fieldB1 w).toNat = 0x8) (h : decodeFamily8 w = some i) :
    encode i = w ∧ WellFormed c i = true := by
  unfold decodeFamily8 at h
  split at h <;> cases h
  all_goals exact ⟨layXYN_fieldX_fieldY hb ‹_›, rfl⟩

theorem encode_of_decodeFamilyE (hb : (fieldB1 w).toNat = 0xE) (h : decodeFamilyE w = some i) :
    encode i = w ∧ WellFormed c i = true := by
  unfold decodeFamilyE at h
  split at h <;> cases h
  all_goals exact ⟨layXKK_fieldX hb ‹_›, rfl⟩

theorem encode_of_decodeFamilyF (hb : (fieldB1 w).toNat = 0xF) (h : decodeFamilyF w = some i) :
    encode i = w ∧ WellFormed c i = true := by
  unfold decodeFamilyF at h
  split at h <;> cases h
  all_goals exact ⟨layXKK_fieldX hb ‹_›, rfl⟩

/-- The instruction decoded from a word encodes to it and is well-formed (R60, R67). -/
theorem encode_of_decodeWord (h : decodeWord c w = some i) : encode i = w ∧ WellFormed c i = true := by
  unfold decodeWord at h
  split at h
  case h_1 => exact encode_of_decodeFamily0 h
  case h_6 hb | h_10 hb =>
    obtain ⟨hn, rfl⟩ := decodeRegSkip_eq_some.1 h
    exact ⟨layXYN_fieldX_fieldY_fieldN hb, hn⟩
  case h_9 hb => exact encode_of_decodeFamily8 hb h
  case h_14 hb =>
    cases h
    exact ⟨layXYN_fieldX_fieldY_fieldN hb, rfl⟩
  case h_15 hb => exact encode_of_decodeFamilyE hb h
  case h_16 =>
    have hb : (fieldB1 w).toNat = 0xF := by
      have := (fieldB1 w).isLt
      simp only [imp_false] at *
      omega
    exact encode_of_decodeFamilyF hb h
  case h_2 hb | h_3 hb | h_11 hb | h_12 hb =>
    cases h
    exact ⟨layNNN_fieldNnn hb, rfl⟩
  case h_4 hb | h_5 hb | h_7 hb | h_8 hb | h_13 hb =>
    cases h
    exact ⟨layXKK_fieldX_fieldKk hb, rfl⟩

/-! ### The words without an instruction (R68) -/

theorem decodeFamily0_eq_none_iff : decodeFamily0 w = none ↔ w.toNat ≠ 0x00E0 ∧ w.toNat ≠ 0x00EE := by
  unfold decodeFamily0
  split <;> simp_all

theorem decodeFamily8_eq_none_iff :
    decodeFamily8 w = none ↔ (fieldN w).toNat ∈ [0x8, 0x9, 0xA, 0xB, 0xC, 0xD, 0xF] := by
  have := (fieldN w).isLt
  unfold decodeFamily8
  split <;> simp_all
  omega

theorem decodeFamilyE_eq_none_iff : decodeFamilyE w = none ↔ (fieldKk w).toNat ∉ [0x9E, 0xA1] := by
  unfold decodeFamilyE
  split <;> simp_all

theorem decodeFamilyF_eq_none_iff :
    decodeFamilyF w = none ↔ (fieldKk w).toNat ∉ [0x07, 0x0A, 0x15, 0x18, 0x1E, 0x29, 0x33, 0x55, 0x65] := by
  unfold decodeFamilyF
  split <;> simp_all

theorem decodeRegSkip_eq_none_iff {build : Reg → Reg → Nibble → Instr} :
    decodeRegSkip c w build = none ↔ c.strictSkipRegDecode = true ∧ (fieldN w).toNat ≠ 0 := by
  rw [decodeRegSkip, ite_eq_right_iff, skipNibbleOk_iff]
  simp

end

/-- Settles O1: the decoder on the word of a well-formed instruction. -/
theorem decodeEncodeRoundTrip : Obligations.DecodeEncodeRoundTrip := fun _ _ h => decodeWord_encode_of_wellFormed h

/-- Settles O2, by the branches of the dispatch. -/
theorem encodeDecodeRoundTrip : Obligations.EncodeDecodeRoundTrip := fun _ _ _ h => encode_of_decodeWord h

/-- Settles O4, by the branches of the dispatch: each major opcode leaves one clause, which its family decides. -/
theorem invalidWordsAreThoseListed : Obligations.InvalidWordsAreThoseListed := by
  intro c w
  rw [← toNat_fieldB1, ← toNat_fieldN, ← toNat_fieldKk]
  unfold decodeWord
  split
  case h_1 hb => simp [hb, decodeFamily0_eq_none_iff]
  case h_6 hb | h_10 hb => simp [hb, decodeRegSkip_eq_none_iff]
  case h_9 hb => simp [hb, decodeFamily8_eq_none_iff]
  case h_15 hb => simp [hb, decodeFamilyE_eq_none_iff]
  case h_16 =>
    have hb : (fieldB1 w).toNat = 0xF := by
      have := (fieldB1 w).isLt
      simp only [imp_false] at *
      omega
    simp [hb, decodeFamilyF_eq_none_iff]
  all_goals simp [*]

/-- Settles O5: the decoder runs on each word. -/
theorem workedWordsDecode : Obligations.WorkedWordsDecode := by
  exact ⟨rfl, rfl, rfl, rfl, rfl, rfl, rfl, rfl, rfl, rfl, rfl⟩

end Sys2Proof.Proofs

/-! SUPPORT. Every instruction in one form: the fatal condition it meets, and its effect where it meets none
(60_exceptions.md R117 to R119). What it writes, said once for all instructions (10_state.md R36). -/

namespace Sys2Proof.Machine

/-! ### The fatal condition and the effect of an instruction -/

/-- The fatal condition an instruction meets, if any (R117). -/
def fatalCondition (s : State) : Instr → Option FatalReason
  | .ret => if s.stack = [] then some .stackUnderflow else none
  | .call _ => if s.stack.length < s.cfg.stackDepth then none else some .stackOverflow
  | .drw _ _ n => if n.toNat = 0 ∨ s.i.toNat + n.toNat ≤ 4096 then none else some (.memReadOutOfRange 4096)
  | .skp x | .sknp x =>
    if s.cfg.keyIndexPolicy = .fatal ∧ 15 < (s.reg x).toNat then some (.keyIndexOutOfRange (s.reg x)) else none
  | .ldBcd _ => if s.i.toNat + 2 < 4096 then none else some (.memWriteOutOfRange 4096)
  | .storeRegs x => if s.i.toNat + x.toNat < 4096 then none else some (.memWriteOutOfRange 4096)
  | .loadRegs x => if s.i.toNat + x.toNat < 4096 then none else some (.memReadOutOfRange 4096)
  | _ => none

/-- The state an instruction leaves where it meets no fatal condition (R67 names the rule of each). -/
def effect (s : State) : Instr → State
  | .cls => s.setFb clearedFb
  | .ret => (s.setStack s.stack.dropLast).setPc (s.stack.getLastD 0)
  | .jp nnn => s.setPc (immAddr nnn)
  | .call nnn => (s.setStack (s.stack ++ [s.pc])).setPc (immAddr nnn)
  | .seImm x kk => s.skipIf (s.reg x == kk)
  | .sneImm x kk => s.skipIf (s.reg x != kk)
  | .seReg x y _ => s.skipIf (s.reg x == s.reg y)
  | .ldImm x kk => s.setReg x kk
  | .addImm x kk => s.setReg x (s.reg x + kk)
  | .ldReg x y => s.setReg x (s.reg y)
  | .orReg x y => s.setReg x (s.reg x ||| s.reg y)
  | .andReg x y => s.setReg x (s.reg x &&& s.reg y)
  | .xorReg x y => s.setReg x (s.reg x ^^^ s.reg y)
  | .addReg x y => (s.setReg vf (carryFlag (s.reg x) (s.reg y))).setReg x (s.reg x + s.reg y)
  | .subReg x y => s.flagThenResult x y noBorrowFlag (fun a b => a - b)
  | .shr x _ => s.flagThenResult x x (fun a _ => lsbFlag a) (fun a _ => a >>> 1)
  | .subnReg x y => s.flagThenResult x y (fun a b => noBorrowFlag b a) (fun a b => b - a)
  | .shl x _ => s.flagThenResult x x (fun a _ => msbFlag a) (fun a _ => a <<< 1)
  | .sneReg x y _ => s.skipIf (s.reg x != s.reg y)
  | .ldIndex nnn => s.setIndex nnn.toNat
  | .jpV0 nnn => s.setPc (immAddr nnn + (s.reg 0).setWidth 16)
  | .rnd x kk => s.drawRandom.2.setReg x (s.drawRandom.1 &&& kk)
  | .drw x y n =>
    (s.setFb (s.drawSprite (s.reg x).toNat (s.reg y).toNat n.toNat).1).setReg vf
      (flagByte (s.drawSprite (s.reg x).toNat (s.reg y).toNat n.toNat).2)
  | .skp x => s.skipIf (s.keyDown ((s.reg x).setWidth 4) == true)
  | .sknp x => s.skipIf (s.keyDown ((s.reg x).setWidth 4) == false)
  | .ldFromDt x => s.setReg x s.dt
  | .ldKey x => s.awaitKey x
  | .ldDt x => s.setDt (s.reg x)
  | .ldSt x => s.setSt (s.reg x)
  | .addIndex x => s.setIndex (s.i.toNat + (s.reg x).toNat)
  | .ldFont x => s.setIndex (s.cfg.fontBase + (s.reg x).toNat * 5)
  | .ldBcd x => s.storeBytes s.i.toNat (decimalDigits (s.reg x))
  | .storeRegs x => s.storeBytes s.i.toNat (s.regsUpTo x)
  | .loadRegs x => s.loadRegsFrom s.i.toNat x

section
variable {s t : State} {i : Instr} {r : FatalReason}

/-- A key skip in the form of every instruction (R113). -/
theorem State.keySkip_eq (s : State) (x : Reg) (down : Bool) :
    s.keySkip x down =
      if s.cfg.keyIndexPolicy = .fatal ∧ 15 < (s.reg x).toNat then s.raiseFatal (.keyIndexOutOfRange (s.reg x))
      else s.skipIf (s.keyDown ((s.reg x).setWidth 4) == down) := by
  obtain ⟨hp, hx, h⟩ | ⟨hn, h⟩ := s.keySkip_cases x down
  · rw [h, if_pos ⟨hp, hx⟩]
  · rw [h, if_neg hn]

/-- What an instruction answers: the fatal condition it meets and nothing else, or its effect (R117, R119). -/
theorem exec_eq (i : Instr) (s : State) :
    exec i s =
      .next (match fatalCondition s i with
        | some r => s.raiseFatal r
        | none => effect s i) := by
  cases i
  case ret =>
    obtain ⟨l, a, hs, h⟩ | ⟨hs, h⟩ := execRet_cases s
    · exact h.trans (by simp [fatalCondition, effect, hs])
    · exact h.trans (by simp [fatalCondition, hs])
  case call nnn =>
    obtain ⟨hs, h⟩ | ⟨hs, h⟩ := execCall_cases nnn s
    · exact h.trans (by simp [fatalCondition, effect, hs])
    · exact h.trans (by simp [fatalCondition, Nat.not_lt.2 hs])
  case drw x y n =>
    obtain ⟨hn, h⟩ | ⟨hn, hi, h⟩ := execDrw_cases x y n s
    · exact h.trans (by simp [fatalCondition, effect, hn])
    · have : ¬ (n.toNat = 0 ∨ s.i.toNat + n.toNat ≤ 4096) := by omega
      exact h.trans (by simp only [fatalCondition, if_neg this])
  case skp x =>
    refine congrArg Host.Outcome.next ((s.keySkip_eq x true).trans ?_)
    rw [fatalCondition]
    split <;> rfl
  case sknp x =>
    refine congrArg Host.Outcome.next ((s.keySkip_eq x false).trans ?_)
    rw [fatalCondition]
    split <;> rfl
  case ldBcd x =>
    obtain ⟨hi, h⟩ | ⟨hi, h⟩ := execLdBcd_cases x s
    · exact h.trans (by simp [fatalCondition, effect, hi])
    · exact h.trans (by simp [fatalCondition, Nat.not_lt.2 hi])
  case storeRegs x =>
    obtain ⟨hi, h⟩ | ⟨hi, h⟩ := execStoreRegs_cases x s
    · exact h.trans (by simp [fatalCondition, effect, hi])
    · exact h.trans (by simp [fatalCondition, Nat.not_lt.2 hi])
  case loadRegs x =>
    obtain ⟨hi, h⟩ | ⟨hi, h⟩ := execLoadRegs_cases x s
    · exact h.trans (by simp [fatalCondition, effect, hi])
    · exact h.trans (by simp [fatalCondition, Nat.not_lt.2 hi])
  all_goals rfl

theorem exec_of_fatalCondition (h : fatalCondition s i = some r) : exec i s = .next (s.raiseFatal r) := by
  rw [exec_eq, h]

theorem exec_of_no_fatalCondition (h : fatalCondition s i = none) : exec i s = .next (effect s i) := by
  rw [exec_eq, h]

/-- An instruction's next state: the fatal condition it meets is taken, or it meets none and has its effect. -/
theorem next_cases (h : exec i s = .next t) :
    (∃ r, fatalCondition s i = some r ∧ t = s.raiseFatal r) ∨ (fatalCondition s i = none ∧ t = effect s i) := by
  rw [exec_eq] at h
  cases hf : fatalCondition s i with
  | none => exact .inr ⟨rfl, by simpa [hf] using h.symm⟩
  | some r => exact .inl ⟨r, rfl, by simpa [hf] using h.symm⟩

/-! ### The frames of the writes that are left -/

/-- A write of the pc changes the pc only (R22). -/
theorem frameExcept_setPc (s : State) (a : Word) (stored : Nat → Prop) :
    FrameExcept s (s.setPc a) [] [.pc] stored := by
  simp [FrameExcept]

/-- A pending key wait is all that Fx0A writes (R112). -/
theorem frameExcept_awaitKey (s : State) (x : Reg) (stored : Nat → Prop) :
    FrameExcept s (s.awaitKey x) [] [.waiting] stored := by
  simp [FrameExcept]

/-- A random draw changes the register written and the count of draws only (R101). -/
theorem frameExcept_drawRandom_setReg (s : State) (x : Reg) (b : Byte) (stored : Nat → Prop) :
    FrameExcept s (s.drawRandom.2.setReg x b) [x] [.draws] stored := by
  simp +contextual [FrameExcept]

/-- A draw changes the framebuffer and the register of its flag only (R72). -/
theorem frameExcept_setFb_setReg (s : State) (f : Framebuffer) (x : Reg) (b : Byte) (stored : Nat → Prop) :
    FrameExcept s ((s.setFb f).setReg x b) [x] [.fb] stored := by
  simp +contextual [FrameExcept]

/-! ### What an instruction writes (R36) -/

/-- The registers an instruction can write (R16, R17). -/
def writtenRegs : Instr → List Reg
  | .ldImm x _ | .addImm x _ | .ldReg x _ | .orReg x _ | .andReg x _ | .xorReg x _ | .rnd x _ | .ldFromDt x => [x]
  | .addReg x _ | .subReg x _ | .shr x _ | .subnReg x _ | .shl x _ => [x, vf]
  | .drw _ _ _ => [vf]
  | .loadRegs x => regsTo x
  | _ => []

/-- The other parts of the state an instruction can write where it meets no fatal condition (R36). -/
def writtenParts : Instr → List Part
  | .cls | .drw _ _ _ => [.fb]
  | .ret | .call _ => [.pc, .stack]
  | .jp _ | .jpV0 _ | .seImm _ _ | .sneImm _ _ | .seReg _ _ _ | .sneReg _ _ _ | .skp _ | .sknp _ => [.pc]
  | .ldIndex _ | .addIndex _ | .ldFont _ => [.i]
  | .rnd _ _ => [.draws]
  | .ldKey _ => [.waiting]
  | .ldDt _ => [.dt]
  | .ldSt _ => [.st]
  | _ => []

/-- The addresses an instruction can store to (R44). -/
def writtenBytes (s : State) : Instr → Nat → Prop
  | .ldBcd _ => block s.i.toNat 3
  | .storeRegs x => block s.i.toNat (x.toNat + 1)
  | _ => nowhere

/-- The effect of an instruction differs from the state before it in what the instruction writes only (R36). -/
theorem frameExcept_effect (s : State) (i : Instr) :
    FrameExcept s (effect s i) (writtenRegs i) (writtenParts i) (writtenBytes s i) := by
  cases i <;> simp only [effect, writtenRegs, writtenParts, writtenBytes]
  case cls => exact frameExcept_setFb ..
  case ret | call => exact frameExcept_setStack_setPc ..
  case jp | jpV0 => exact frameExcept_setPc ..
  case seImm | sneImm | seReg | sneReg | skp | sknp => exact frameExcept_skipIf ..
  case ldImm | addImm | ldReg | orReg | andReg | xorReg | ldFromDt => exact frameExcept_setReg ..
  case addReg => exact frameExcept_setReg_setReg ..
  case subReg | shr | subnReg | shl => exact frameExcept_flagThenResult ..
  case ldIndex | addIndex | ldFont => exact frameExcept_setIndex ..
  case rnd => exact frameExcept_drawRandom_setReg ..
  case drw => exact frameExcept_setFb_setReg ..
  case ldKey => exact frameExcept_awaitKey ..
  case ldDt => exact frameExcept_setDt ..
  case ldSt => exact frameExcept_setSt ..
  case ldBcd => exact frameExcept_storeBytes ..
  case storeRegs x => exact s.length_regsUpTo x ▸ frameExcept_storeBytes ..
  case loadRegs => exact frameExcept_loadRegsFrom ..

end

end Sys2Proof.Machine

/-! SUPPORT. What a step that answers a next state did, one constructor per case (30_encoding.md R59, 60_exceptions.md
R127, R135). -/

namespace Sys2Proof.Machine

/-- The next states of a cycle slot after which `k` are left (R59, R127). -/
inductive SlotTo (s : State) (k : Nat) : State → Prop
  /-- A paused, waiting or fatal instance executes nothing. -/
  | skip (hr : s.running = false) : SlotTo s k { s with phase := .slots k }
  /-- The fetch fails (R42). -/
  | fetchFault (hr : s.running = true) (hpc : 0xFFF ≤ s.pc.toNat) (hf : s.fetch = none) :
    SlotTo s k (s.raiseFatal (.fetchOutOfRange s.pc))
  /-- The word fetched is invalid (R120). -/
  | invalid {w : Word} (hr : s.running = true) (hpc : s.pc.toNat < 0xFFF) (hf : s.fetch = some w)
    (hd : decodeWord s.cfg w = none) : SlotTo s k { s with phase := .slots k, pc := s.pc + 2, log := s.log ++ [w] }
  /-- The instruction fetched is executed. -/
  | execute {w : Word} {i : Instr} {t : State} (hr : s.running = true) (hpc : s.pc.toNat < 0xFFF)
    (hf : s.fetch = some w) (hd : decodeWord s.cfg w = some i)
    (h : exec i { s with phase := .slots k, pc := s.pc + 2 } = .next t) : SlotTo s k t

/-- The next states of a step (R127, R135). -/
inductive StepTo (s : State) : State → Prop
  | freeTick (hp : s.phase = .between) (hc : s.calls = []) :
    StepTo s (State.beginTick { s with frames := s.frames + 1 } (Config.frameKeys s.frames)
      (Config.framePress s.frames))
  | tick {keysNow : KeyTable} {pressed : Option Reg} {rest : List HostCall} (hp : s.phase = .between)
    (hc : s.calls = .tick keysNow pressed :: rest) : StepTo s (State.beginTick { s with calls := rest } keysNow pressed)
  | togglePause {rest : List HostCall} (hp : s.phase = .between) (hc : s.calls = .togglePause :: rest) :
    StepTo s { s with calls := rest, paused := !s.paused }
  | reset {rest : List HostCall} {t : State} (hp : s.phase = .between) (hc : s.calls = .reset :: rest)
    (ht : State.construct s.cfg s.rom = some t) :
    StepTo s { t with calls := rest, draws := s.draws, frames := s.frames }
  | quit {rest : List HostCall} (hp : s.phase = .between) (hc : s.calls = .quit :: rest) :
    StepTo s { s with calls := rest, phase := .stopped }
  | endTick (hp : s.phase = .slots 0) : StepTo s s.endTick
  | slot {k : Nat} {t : State} (hp : s.phase = .slots (k + 1)) (h : SlotTo s k t) : StepTo s t

section
variable {s t : State} {k : Nat} {rest : List HostCall}

/-! ### A host call, by the call -/

theorem step_freeTick (hp : s.phase = .between) (hc : s.calls = []) :
    step s = .next (State.beginTick { s with frames := s.frames + 1 } (Config.frameKeys s.frames)
      (Config.framePress s.frames)) := by
  simp [step_between hp, State.serveHost, hc]

theorem step_tick {keysNow : KeyTable} {pressed : Option Reg} (hp : s.phase = .between)
    (hc : s.calls = .tick keysNow pressed :: rest) :
    step s = .next (State.beginTick { s with calls := rest } keysNow pressed) := by
  simp [step_between hp, State.serveHost, hc]

theorem step_togglePause (hp : s.phase = .between) (hc : s.calls = .togglePause :: rest) :
    step s = .next { s with calls := rest, paused := !s.paused } := by
  simp [step_between hp, State.serveHost, hc]

theorem step_reset (hp : s.phase = .between) (hc : s.calls = .reset :: rest) :
    step s = State.restart { s with calls := rest } := by
  simp [step_between hp, State.serveHost, hc]

theorem step_quit (hp : s.phase = .between) (hc : s.calls = .quit :: rest) :
    step s = .next { s with calls := rest, phase := .stopped } := by
  simp [step_between hp, State.serveHost, hc]

/-- A slot of an instance that is not running is used up (R127, R149). -/
theorem step_skip (hp : s.phase = .slots (k + 1)) (hr : s.running = false) :
    step s = .next { s with phase := .slots k } := by
  rw [step_slot hp]
  exact State.slot_skip hr

/-! ### The inversions -/

theorem slotTo_of_step (hp : s.phase = .slots (k + 1)) (h : step s = .next t) : SlotTo s k t := by
  cases hr : s.running with
  | false =>
    rw [step_skip hp hr] at h
    cases h
    exact .skip hr
  | true =>
    by_cases hpc : s.pc.toNat < 0xFFF
    · have hf := State.fetch_of_lt hpc
      obtain ⟨hvalid, hinvalid⟩ := Proofs.step_of_fetch hp hr hf
      cases hd : decodeWord s.cfg (wordOfBytes (s.byteAt s.pc.toNat) (s.byteAt (s.pc.toNat + 1))) with
      | none =>
        rw [hinvalid hd] at h
        cases h
        exact .invalid hr hpc hf hd
      | some i => exact .execute hr hpc hf hd (hvalid i hd ▸ h)
    · have hge := Nat.not_lt.1 hpc
      have hf := State.fetch_of_ge hge
      rw [Proofs.step_of_fetch_none hp hr hf] at h
      cases h
      exact .fetchFault hr hge hf

theorem stepTo_of_step (h : step s = .next t) : StepTo s t := by
  match hp : s.phase with
  | .stopped =>
    rw [step_stopped hp] at h
    cases h
  | .slots 0 =>
    rw [step_endTick hp] at h
    cases h
    exact .endTick hp
  | .slots (k + 1) => exact .slot hp (slotTo_of_step hp h)
  | .between =>
    rw [step_between hp] at h
    obtain ⟨hc, e⟩ | ⟨keysNow, pressed, rest, hc, e⟩ | ⟨rest, hc, e⟩ | ⟨rest, hc, e⟩ | ⟨rest, hc, e⟩ :=
      s.serveHost_cases <;> rw [e] at h
    · cases h
      exact .freeTick hp hc
    · cases h
      exact .tick hp hc
    · cases h
      exact .togglePause hp hc
    · unfold State.restart at h
      split at h
      · cases h
      · next u hu =>
        cases h
        exact .reset hp hc hu
    · cases h
      exact .quit hp hc

end

end Sys2Proof.Machine

/-! SUPPORT. What no instruction writes, which instruction writes what, and the pc after each, from the table of what
instructions write (10_state.md R23, R36). -/

namespace Sys2Proof.Machine

section
variable {s t : State} {i : Instr} {r : FatalReason}

/-! ### Frames -/

/-- A frame holds with more listed. -/
theorem FrameExcept.mono {regs regs' : List Reg} {parts parts' : List Part} {stored stored' : Nat → Prop}
    (h : FrameExcept s t regs parts stored) (hr : regs ⊆ regs') (hp : parts ⊆ parts') (hb : ∀ a, stored a → stored' a) :
    FrameExcept s t regs' parts' stored' := by
  have hmem {p : Part} (hp' : p ∉ parts') : p ∉ parts := fun h => hp' (hp h)
  obtain ⟨hreg, hpc, hi, hstack, hdt, hst, hfb, hwaiting, hstatus, hlog, hphase, hdraws, hbyte, hhost⟩ := h
  exact ⟨fun r h => hreg r fun h' => h (hr h'), fun h => hpc (hmem h), fun h => hi (hmem h), fun h => hstack (hmem h),
    fun h => hdt (hmem h), fun h => hst (hmem h), fun h => hfb (hmem h), fun h => hwaiting (hmem h),
    fun h => hstatus (hmem h), fun h => hlog (hmem h), fun h => hphase (hmem h), fun h => hdraws (hmem h),
    fun a h => hbyte a fun h' => h (hb a h'), hhost⟩

/-- An instruction changes what it writes, and by a fatal condition the status and the place in the tick (R36, R119). -/
theorem frameExcept_exec (h : exec i s = .next t) :
    FrameExcept s t (writtenRegs i) (.status :: .phase :: writtenParts i) (writtenBytes s i) := by
  obtain ⟨r, -, rfl⟩ | ⟨-, rfl⟩ := next_cases h
  · exact (frameExcept_raiseFatal s s.phase r nowhere).mono (by simp) (by simp) (fun _ => False.elim)
  · exact (frameExcept_effect s i).mono (by simp) (by simp) (fun _ => id)

/-- No instruction's effect writes the status, the log or the place in the tick. -/
theorem status_log_phase_not_mem_writtenParts (i : Instr) :
    .status ∉ writtenParts i ∧ .log ∉ writtenParts i ∧ .phase ∉ writtenParts i := by
  cases i <;> simp [writtenParts]

/-- An instruction's effect keeps the status and the place in the tick (R118). -/
theorem effect_status_phase (s : State) (i : Instr) :
    (effect s i).status = s.status ∧ (effect s i).phase = s.phase := by
  obtain ⟨-, -, -, -, -, -, -, -, hstatus, -, hphase, -⟩ := frameExcept_effect s i
  obtain ⟨hnostatus, -, hnophase⟩ := status_log_phase_not_mem_writtenParts i
  exact ⟨hstatus hnostatus, hphase hnophase⟩

/-! ### Which instruction writes what (R17, R20, R26, R28, R33, R36, R44) -/

theorem vf_mem_writtenRegs (h : vf ∈ writtenRegs i) :
    (∃ x y, i = .addReg x y ∨ i = .subReg x y ∨ i = .shr x y ∨ i = .subnReg x y ∨ i = .shl x y) ∨
    (∃ x y n, i = .drw x y n) ∨
    (∃ kk, i = .ldImm vf kk ∨ i = .addImm vf kk ∨ i = .rnd vf kk) ∨
    (∃ y, i = .ldReg vf y ∨ i = .orReg vf y ∨ i = .andReg vf y ∨ i = .xorReg vf y) ∨
    i = .ldFromDt vf ∨ i = .loadRegs vf := by
  cases i
  case addReg | subReg | shr | subnReg | shl => exact .inl (by simp)
  case drw => exact .inr (.inl (by simp))
  case ldImm | addImm | rnd =>
    obtain rfl := List.mem_singleton.1 h
    exact .inr (.inr (.inl (by simp)))
  case ldReg | orReg | andReg | xorReg =>
    obtain rfl := List.mem_singleton.1 h
    exact .inr (.inr (.inr (.inl (by simp))))
  case ldFromDt =>
    obtain rfl := List.mem_singleton.1 h
    simp
  case loadRegs x =>
    have hx : 15 ≤ x.toNat := mem_regsTo.1 h
    obtain rfl : x = vf := BitVec.eq_of_toNat_eq (Nat.le_antisymm (Nat.le_of_lt_succ x.isLt) hx)
    simp
  all_goals cases h

theorem i_mem_writtenParts :
    .i ∈ writtenParts i ↔ (∃ nnn, i = .ldIndex nnn) ∨ ∃ x, i = .addIndex x ∨ i = .ldFont x := by
  cases i <;> simp [writtenParts]

theorem fb_mem_writtenParts : .fb ∈ writtenParts i ↔ i = .cls ∨ ∃ x y n, i = .drw x y n := by
  cases i <;> simp [writtenParts]

theorem stack_mem_writtenParts : .stack ∈ writtenParts i ↔ i = .ret ∨ ∃ nnn, i = .call nnn := by
  cases i <;> simp [writtenParts]

theorem dt_mem_writtenParts : .dt ∈ writtenParts i ↔ ∃ x, i = .ldDt x := by
  cases i <;> simp [writtenParts]

theorem st_mem_writtenParts : .st ∈ writtenParts i ↔ ∃ x, i = .ldSt x := by
  cases i <;> simp [writtenParts]

theorem waiting_mem_writtenParts : .waiting ∈ writtenParts i ↔ ∃ x, i = .ldKey x := by
  cases i <;> simp [writtenParts]

theorem writtenBytes_iff {a : Nat} :
    writtenBytes s i a ↔
      (∃ x, i = .ldBcd x ∧ block s.i.toNat 3 a) ∨ ∃ x, i = .storeRegs x ∧ block s.i.toNat (x.toNat + 1) a := by
  cases i <;> simp [writtenBytes, nowhere]

/-- A part that an instruction changed is one it writes. -/
theorem mem_writtenParts_of_changed {p : Part} {α : Type} {a b : α} (hstatus : p ≠ .status) (hphase : p ≠ .phase)
    (h : p ∉ .status :: .phase :: writtenParts i → a = b) (hne : a ≠ b) : p ∈ writtenParts i := by
  have := not_imp_comm.1 h hne
  simpa [hstatus, hphase] using this

/-! ### The fatal status -/

/-- A live instance is fatal after an instruction exactly when the instruction met that condition (R117). -/
theorem status_eq_fatal_iff (hs : s.status = .live) (h : exec i s = .next t) :
    t.status = .fatal r ↔ fatalCondition s i = some r := by
  obtain ⟨r', hf, rfl⟩ | ⟨hf, rfl⟩ := next_cases h
  · simp [hf]
  · simp [hf, effect_status_phase, hs]

/-- An instruction that leaves a live instance met no fatal condition and had its effect. -/
theorem eq_effect_of_live (h : exec i s = .next t) (ht : t.status = .live) :
    fatalCondition s i = none ∧ t = effect s i := by
  obtain ⟨r, -, rfl⟩ | heffect := next_cases h
  · cases ht
  · exact heffect

/-- The sum of a 12-bit address and a byte fits in the pc, so it is not reduced (R84). -/
theorem toNat_immAddr_add (nnn : Imm12) (b : Byte) :
    (immAddr nnn + b.setWidth 16).toNat = nnn.toNat + b.toNat := by
  have := nnn.isLt
  have := b.isLt
  rw [BitVec.toNat_add, toNat_immAddr, BitVec.toNat_setWidth]; omega

end

end Sys2Proof.Machine

/-! The obligations about all instructions. -/

namespace Sys2Proof.Proofs

open Sys2Proof Sys2Proof.Machine

/-- Settles O52. -/
theorem everyInstructionAnswers : Obligations.EveryInstructionAnswers := fun i s => ⟨_, exec_eq i s⟩

/-- Settles O55, by the frame of an instruction: the log is the one part of these that any cycle writes. -/
theorem instructionsLeaveHostState : Obligations.InstructionsLeaveHostState := by
  intro i s t h
  obtain ⟨-, -, -, -, -, -, -, -, -, hlog, -, -, -, hkeys, hpaused, hcfg, hrom, hout, hcalls, hframes⟩ :=
    frameExcept_exec h
  have hnolog : Part.log ∉ .status :: .phase :: writtenParts i := by simp [status_log_phase_not_mem_writtenParts]
  exact ⟨hkeys, hpaused, hcfg, hrom, hlog hnolog, hout, hcalls, hframes⟩

/-- Settles O56, by the registers each instruction writes. -/
theorem onlyListedInstructionsWriteVf : Obligations.OnlyListedInstructionsWriteVf := by
  intro i s t h hne
  obtain ⟨hreg, -⟩ := frameExcept_exec h
  exact vf_mem_writtenRegs (not_imp_comm.1 (hreg vf) hne)

/-- Settles O57, by the parts each instruction writes. -/
theorem onlyListedInstructionsWriteOtherState : Obligations.OnlyListedInstructionsWriteOtherState := by
  intro i s t h
  obtain ⟨-, -, hi, hstack, hdt, hst, hfb, hwaiting, -, -, -, -, hbyte, -⟩ := frameExcept_exec h
  have hmem {p : Part} {α : Type} {a b : α} := mem_writtenParts_of_changed (i := i) (p := p) (a := a) (b := b)
  refine ⟨fun hne => ?i, fun a hne => ?byte, fun hne => ?fb, fun hne => ?stack, fun hne => ?dt, fun hne => ?st,
    fun hne => ?waiting⟩
  case i => exact i_mem_writtenParts.1 (hmem nofun nofun hi hne)
  case byte => exact writtenBytes_iff.1 (not_imp_comm.1 (hbyte a) hne)
  case fb => exact fb_mem_writtenParts.1 (hmem nofun nofun hfb hne)
  case stack => exact stack_mem_writtenParts.1 (hmem nofun nofun hstack hne)
  case dt => exact dt_mem_writtenParts.1 (hmem nofun nofun hdt hne)
  case st => exact st_mem_writtenParts.1 (hmem nofun nofun hst hne)
  case waiting => exact waiting_mem_writtenParts.1 (hmem nofun nofun hwaiting hne)

/-- Settles O53: the condition an instruction meets, case by case; a running slot is fatal by its fetch or by the
instruction fetched. -/
theorem fatalConditionsAreThoseListed : Obligations.FatalConditionsAreThoseListed := by
  constructor
  · intro i s t r hs hstack h
    rw [status_eq_fatal_iff hs h]
    cases i
    case drw x y n =>
      simp only [fatalCondition, Option.ite_none_left_eq_some, Option.some.injEq, eq_comm (b := r), ← and_assoc]
      exact and_congr_left fun _ => by omega
    case ldBcd | storeRegs | loadRegs =>
      simp only [fatalCondition, Option.ite_none_left_eq_some, Option.some.injEq, eq_comm (b := r), Nat.not_lt]
    case ret =>
      simp only [fatalCondition, Option.ite_none_right_eq_some, Option.some.injEq, eq_comm (b := r)]
    case call =>
      simp only [fatalCondition, Option.ite_none_left_eq_some, Option.some.injEq, eq_comm (b := r)]
      exact and_congr_left fun _ => by omega
    case skp | sknp =>
      simp only [fatalCondition, Option.ite_none_right_eq_some, Option.some.injEq, eq_comm (b := r), and_assoc]
    all_goals simp [fatalCondition]
  · intro s t k r hp hr h
    cases slotTo_of_step hp h with
    | skip hr' => cases hr.symm.trans hr'
    | fetchFault hr' hpc hf => simp [hf, hpc, eq_comm]
    | invalid hr' hpc hf hd =>
      have hlive := (s.running_iff.1 hr).1
      simp [hf, hd, hlive, Nat.not_le.2 hpc]
    | execute hr' hpc hf hd hexec =>
      constructor
      · exact fun hr => .inr ⟨_, _, t, hf, hd, hexec, hr⟩
      · rintro (⟨hpc', -⟩ | ⟨w, i, u, hf', hd', hexec', hu⟩)
        · omega
        · cases hf.symm.trans hf'
          cases hd.symm.trans hd'
          cases hexec.symm.trans hexec'
          exact hu

/-- Settles O54: an instruction that is fatal has done nothing else, and so has a cycle beyond the advance of the pc. -/
theorem fatalConditionsArePrecise : Obligations.FatalConditionsArePrecise := by
  have hinstr (i : Instr) (s t : State) (r : FatalReason) (hs : s.status = .live) (h : exec i s = .next t)
      (ht : t.status = .fatal r) : t = { s with status := .fatal r, phase := .between } := by
    rw [exec_of_fatalCondition ((status_eq_fatal_iff hs h).1 ht)] at h
    cases h
    rfl
  refine ⟨hinstr, ?_⟩
  intro s t k r hp hs h ht
  cases slotTo_of_step hp h with
  | skip | invalid => cases hs.symm.trans ht
  | fetchFault _ hpc =>
    cases ht
    rw [if_neg (Nat.not_lt.2 hpc)]
    rfl
  | execute _ hpc _ _ hexec =>
    rw [if_pos hpc]
    exact hinstr _ { s with phase := .slots k, pc := s.pc + 2 } _ _ hs hexec ht

/-- Settles O58, by the effect of each instruction on the pc. -/
theorem pcAfterEveryInstruction : Obligations.PcAfterEveryInstruction := by
  constructor
  · intro i s t h ht
    obtain ⟨hf, rfl⟩ := eq_effect_of_live h ht
    cases i
    case jp | call => exact toNat_immAddr _
    case jpV0 => exact toNat_immAddr_add ..
    case sknp => simp [effect, ← Bool.not_eq_true, ite_not]
    case ret =>
      obtain hnil | ⟨l, a, hs⟩ := List.eq_nil_or_concat' s.stack
      · simp [fatalCondition, hnil] at hf
      · exact ⟨l, by simp [effect, hs]⟩
    all_goals simp [effect]
  · intro s t k w hp hr hf hd h
    rw [(step_of_fetch hp hr hf).2 hd] at h
    cases h
    rfl

end Sys2Proof.Proofs

/-! SUPPORT. Memory in canonical form is what it reads as (10_state.md R35), and what a construction leaves in memory
(10_state.md R38, 20_memory.md R48 to R50). -/

namespace Sys2Proof.Machine

section
variable {c : Config} {m n : Memory} {a k : Nat} {b : Byte}

theorem Memory.read_cons_same : Memory.read c ((a, b) :: m) a = b := by simp [Memory.read, Memory.find]

theorem Memory.read_cons_other (h : k ≠ a) : Memory.read c ((k, b) :: m) a = Memory.read c m a := by
  simp [Memory.read, Memory.find, h]

/-- Below the first address memory reads as at construction. -/
theorem Memory.read_of_above (hw : m.wf c = true) (h : Memory.above a m = true) : m.read c a = c.initialByte a := by
  rw [Memory.read, Memory.find_of_above hw h, Option.getD_none]

/-- A canonical memory reads differently, at its first address, from one that lists only higher addresses. -/
theorem Memory.read_head_ne (hm : Memory.wf c ((a, b) :: m) = true) (hn : n.wf c = true)
    (h : Memory.above a n = true) : Memory.read c ((a, b) :: m) a ≠ n.read c a := by
  obtain ⟨-, hb, -⟩ := Memory.wf_cons.1 hm
  rwa [Memory.read_cons_same, Memory.read_of_above hn h]

/-- Canonical memories that read alike are the same list. -/
theorem Memory.eq_of_read_eq (hm : m.wf c = true) (hn : n.wf c = true)
    (h : ∀ a, a < 4096 → m.read c a = n.read c a) : m = n := by
  induction m generalizing n with
  | nil =>
    cases n with
    | nil => rfl
    | cons q n' =>
      obtain ⟨hq, -⟩ := Memory.wf_cons.1 hn
      exact absurd (h q.1 hq).symm (Memory.read_head_ne hn hm rfl)
  | cons p m' ih =>
    obtain ⟨a, b⟩ := p
    obtain ⟨ha, -, hma, hm'⟩ := Memory.wf_cons.1 hm
    cases n with
    | nil => exact absurd (h a ha) (Memory.read_head_ne hm hn rfl)
    | cons q n' =>
      obtain ⟨a', b'⟩ := q
      obtain ⟨ha', -, hna, hn'⟩ := Memory.wf_cons.1 hn
      obtain hlt | rfl | hgt := Nat.lt_trichotomy a a'
      · exact absurd (h a ha) (Memory.read_head_ne hm hn ((Memory.above_cons ..).2 hlt))
      · have hb := h a ha
        rw [Memory.read_cons_same, Memory.read_cons_same] at hb
        have htail : m' = n' := ih hm' hn' fun x hx => by
          by_cases hxa : a = x
          · subst hxa
            rw [Memory.read_of_above hm' hma, Memory.read_of_above hn' hna]
          · simpa only [Memory.read_cons_other hxa] using h x hx
        rw [hb, htail]
      · exact absurd (h a' ha').symm (Memory.read_head_ne hn hm ((Memory.above_cons ..).2 hgt))

/-! ### The construction content (R38, R48, R49) -/

theorem initialByte_font (h : a < 80) : c.initialByte (c.fontBase + a) = font.getD a 0 := by
  rw [Config.initialByte, if_pos (by omega), Nat.add_sub_cancel_left]

theorem initialByte_of_not_font (h : a < c.fontBase ∨ c.fontBase + 80 ≤ a) :
    c.initialByte a = c.resetValues.mem.getD a 0 := by
  rw [Config.initialByte, if_neg (by omega)]

/-- Outside the ROM memory is as before the ROM was loaded. -/
theorem Memory.read_load_outside {rom : List Byte} (h : a < 0x200 ∨ 0x200 + rom.length ≤ a) :
    (Memory.writeBlock c [] 0x200 rom).read c a = c.initialByte a :=
  Memory.read_writeBlock_other c [] rom 0x200 h

/-- The ROM is read at 0x200 (R47). -/
theorem Memory.read_load_inside {rom : List Byte} (hr : rom.length ≤ 3584) (hlo : 0x200 ≤ a)
    (hhi : a < 0x200 + rom.length) : (Memory.writeBlock c [] 0x200 rom).read c a = rom.getD (a - 0x200) 0 := by
  have hk : a - 0x200 < rom.length := by omega
  have h := Memory.read_writeBlock_inside c (Memory.wf_nil c) rom 0x200 (a - 0x200) hk (by rw [memSize]; omega)
  rw [Nat.add_sub_cancel' hlo] at h
  rw [h, List.getD_eq_getElem]

theorem Memory.load_wf {rom : List Byte} (hr : rom.length ≤ 3584) :
    (Memory.writeBlock c [] 0x200 rom).wf c = true :=
  Memory.writeBlock_wf c (Memory.wf_nil c) rom 0x200 (by rw [memSize]; omega)

/-! ### Admitted configurations and construction (R21, R49, R50, R141) -/

theorem Config.wf_iff :
    c.wf = true ↔
      c.fontBase + 80 ≤ 0x200 ∧ c.resetValues.i.toNat < 4096 ∧ c.resetValues.stack.length ≤ c.stackDepth ∧
        ∀ a ∈ c.resetValues.stack, a.toNat ≤ 0x1000 := by
  simp only [Config.wf, Bool.and_eq_true, decide_eq_true_eq, List.all_eq_true, and_assoc]

theorem construct_guard {rom : List Byte} :
    (c.wf && decide (rom.length ≤ maxRomLength)) = true ↔ c.wf = true ∧ rom.length ≤ 3584 := by
  rw [Bool.and_eq_true, decide_eq_true_eq]
  exact Iff.rfl

theorem State.construct_eq_none {rom : List Byte} (h : c.wf = false ∨ 3584 < rom.length) :
    State.construct c rom = none := by
  refine if_neg (mt construct_guard.1 ?_)
  rintro ⟨hw, hr⟩
  obtain hw' | hr' := h
  · exact absurd (hw.symm.trans hw') nofun
  · omega

theorem State.restart_of_some {s t : State} (h : State.construct s.cfg s.rom = some t) :
    s.restart = .next { t with calls := s.calls, draws := s.draws, frames := s.frames } := by
  unfold State.restart
  rw [h]

theorem State.restart_of_none {s : State} (h : State.construct s.cfg s.rom = none) :
    s.restart = .fault .constructionFailed := by
  unfold State.restart
  rw [h]

/-- A new instance meets the invariant: the configuration was admitted for it (log 14). -/
theorem State.construct_inv {rom : List Byte} {t : State} (h : State.construct c rom = some t) : t.Inv := by
  obtain ⟨hguard, ht⟩ := Option.ite_none_right_eq_some.1 h
  obtain ⟨hw, hr⟩ := construct_guard.1 hguard
  obtain ⟨-, hi, hlen, hstack⟩ := Config.wf_iff.1 hw
  cases ht
  have hpc : (BitVec.ofNat 16 programBase).toNat < 0x10FF := by decide
  exact ⟨hw, Memory.load_wf hr, hi, hpc, hlen, hstack, hr, nofun⟩

end

end Sys2Proof.Machine

/-! The obligations of 10_state.md and 70_reset_and_hazards.md about construction. -/

namespace Sys2Proof.Proofs

open Sys2Proof Sys2Proof.Machine

/-- Settles O24, by induction over both lists: where they first differ, so do the bytes read. -/
theorem memoryFormIsUnique : Obligations.MemoryFormIsUnique := fun _ _ _ hm hn h => Memory.eq_of_read_eq hm hn h

/-- Settles O21: the font lies below the ROM, so loading the ROM leaves it. -/
theorem constructionOverAllParameters : Obligations.ConstructionOverAllParameters := by
  intro c rom
  refine ⟨fun hw hr => ?_, State.construct_eq_none⟩
  obtain ⟨hfont, -⟩ := Config.wf_iff.1 hw
  refine ⟨_, if_pos (construct_guard.2 ⟨hw, hr⟩), rfl, rfl, fun a ha => ?font, fun a hlo hhi => ?rom,
    fun a _ hf ho => ?other, Memory.load_wf hr, rfl, rfl, rfl, rfl, rfl, rfl, rfl, rfl, rfl, rfl, rfl, rfl⟩
  case font => exact (Memory.read_load_outside (by omega)).trans (initialByte_font ha)
  case rom => exact Memory.read_load_inside hr hlo hhi
  case other => exact (Memory.read_load_outside ho).trans (initialByte_of_not_font hf)

/-- Settles O20: the construction with the default parameters, whose RESET_VALUES are all zero. -/
theorem defaultConstructionState : Obligations.DefaultConstructionState := by
  intro rom hr
  obtain ⟨t, ht, -, -, hfont, hrom, hother, -, hv, hi, hpc, hstack, hdt, hst, hfb, hkeys, hpaused, hwaiting, hstatus,
    hlog⟩ := (constructionOverAllParameters Config.default rom).1 rfl hr
  refine ⟨t, ht, fun a ha => ?font, hrom, fun a hlo hhi ho => hother a hhi (.inr hlo) ho, fun x => ?reg, hi, hpc,
    hstack, hdt, hst, fun x y _ _ => ?cell, fun k => ?key, hpaused, hwaiting, hstatus, hlog⟩
  case font => simpa only [show Config.default.fontBase = 0 from rfl, Nat.zero_add] using hfont a ha
  case reg =>
    simp only [State.reg, hv]
    exact Vector.getElem_replicate ..
  case cell => exact hfb ▸ cellAt_clearedFb x y
  case key =>
    simp only [State.keyDown, hkeys]
    exact Vector.getElem_replicate ..

/-- Settles O23: the reset state is constructed, and every constructed state meets the invariant. -/
theorem resetMeetsInvariant : Obligations.ResetMeetsInvariant :=
  have hreset : State.construct Config.default [] = some State.reset := rfl
  ⟨hreset, State.construct_inv hreset⟩

/-- Settles O17, by whether an instance can be constructed. -/
theorem resetConstructsFreshInstance : Obligations.ResetConstructsFreshInstance := by
  intro s rest hp hc
  rw [step_reset hp hc]
  constructor
  · intro hw hr
    obtain ⟨t, ht, -⟩ := (constructionOverAllParameters s.cfg s.rom).1 hw hr
    exact ⟨t, ht, State.restart_of_some ht⟩
  · intro h
    exact State.restart_of_none (State.construct_eq_none h)

end Sys2Proof.Proofs

/-! SUPPORT. What the start and the end of a tick write (60_exceptions.md R127 to R131), and a halt loop by what it
rests on (R139). -/

namespace Sys2Proof.Machine

section
variable {s t : State} {keysNow : KeyTable} {pressed : Option Reg}

/-! ### The start of a tick -/

/-- The start of a tick of a live instance writes the keys, the place in the tick and the last result, and by the
resolution registers and the key wait (R129, R130). -/
theorem State.beginTick_eq (h : s.status = .live) (keysNow : KeyTable) (pressed : Option Reg) :
    s.beginTick keysNow pressed =
      { s with
        keys := keysNow, phase := .slots s.cfg.ipt, out := none
        v := (s.beginTick keysNow pressed).v, waiting := (s.beginTick keysNow pressed).waiting } := by
  rw [State.beginTick_live h]
  obtain ⟨x, k, -, -, -, e⟩ | ⟨-, e⟩ := State.resolveKey_cases { s with
    keys := keysNow, phase := .slots s.cfg.ipt, out := none } pressed
  · rw [e]
    rfl
  · rw [e]

/-- A press that is signalled to an unpaused instance waiting for it goes to the register that waits (R130). -/
theorem State.beginTick_resolves (h : s.status = .live) {x k : Reg} (hp : s.paused = false) (hw : s.waiting = some x) :
    s.beginTick keysNow (some k) =
      { s.setReg x (k.setWidth 8) with
        keys := keysNow, phase := .slots s.cfg.ipt, out := none, waiting := none } := by
  rw [State.beginTick_live h]
  obtain ⟨x', k', -, hw', hk', e⟩ | ⟨hno, -⟩ := State.resolveKey_cases { s with
    keys := keysNow, phase := .slots s.cfg.ipt, out := none } (some k)
  · cases hw.symm.trans hw'
    cases hk'
    exact e
  · exact absurd ⟨hp, by rw [hw]; rfl, rfl⟩ hno

/-- While paused, and without a wait or a press, the start of a tick resolves nothing (R130). -/
theorem State.beginTick_ignores (h : s.status = .live)
    (hno : s.paused = true ∨ s.waiting = none ∨ pressed = none) :
    s.beginTick keysNow pressed = { s with keys := keysNow, phase := .slots s.cfg.ipt, out := none } := by
  rw [State.beginTick_live h]
  obtain ⟨x, k, hp, hw, hk, -⟩ | ⟨-, e⟩ := State.resolveKey_cases { s with
    keys := keysNow, phase := .slots s.cfg.ipt, out := none } pressed
  · simp_all
  · exact e

/-- What a resolved wait leaves in the registers (R130). -/
theorem State.reg_beginTick_resolves (h : s.status = .live) {x k : Reg} (hp : s.paused = false)
    (hw : s.waiting = some x) (keysNow : KeyTable) :
    ((s.beginTick keysNow (some k)).reg x).toNat = k.toNat ∧
      (∀ r, r ≠ x → (s.beginTick keysNow (some k)).reg r = s.reg r) ∧
      (s.beginTick keysNow (some k)).waiting = none := by
  have hreg (r : Reg) : (s.beginTick keysNow (some k)).reg r = (s.setReg x (k.setWidth 8)).reg r := by
    rw [State.beginTick_resolves h hp hw]
    rfl
  refine ⟨?_, fun r hr => (hreg r).trans ((State.reg_setReg ..).trans (if_neg hr)), ?_⟩
  · rw [hreg, State.reg_setReg, if_pos rfl]
    exact BitVec.toNat_setWidth_of_le (by decide)
  · rw [State.beginTick_resolves h hp hw]

/-- The start of a tick leaves a fatal instance; of a live one it never writes the timers (R116, R118). -/
theorem State.beginTick_timers (s : State) (keysNow : KeyTable) (pressed : Option Reg) :
    (s.beginTick keysNow pressed).dt = s.dt ∧ (s.beginTick keysNow pressed).st = s.st := by
  cases h : s.status with
  | live =>
    rw [State.beginTick_eq h]
    exact ⟨rfl, rfl⟩
  | fatal r =>
    rw [State.beginTick_fatal h]
    exact ⟨rfl, rfl⟩

/-- The start of a tick leaves the key table or makes it the one given (R129). -/
theorem State.beginTick_keys (s : State) (keysNow : KeyTable) (pressed : Option Reg) :
    (s.beginTick keysNow pressed).keys = s.keys ∨ (s.beginTick keysNow pressed).keys = keysNow := by
  cases h : s.status with
  | live =>
    rw [State.beginTick_eq h]
    exact .inr rfl
  | fatal r =>
    rw [State.beginTick_fatal h]
    exact .inl rfl

/-! ### The end of a tick -/

theorem State.decrementTimers_eq (s : State) :
    s.decrementTimers =
      { s with
        dt := if s.paused then s.dt else countDown s.dt
        st := if s.paused then s.st else countDown s.st } := by
  unfold State.decrementTimers
  by_cases h : s.paused = true
  · simp only [if_pos h]
  · simp only [if_neg h]

/-- The end of a tick of a live instance writes the timers, the place in the tick and the result (R128, R131). -/
theorem State.endTick_eq (h : s.status = .live) :
    s.endTick =
      { s with
        dt := if s.paused then s.dt else countDown s.dt
        st := if s.paused then s.st else countDown s.st
        phase := .between
        out := some s.decrementTimers.tickResult } := by
  rw [State.endTick_live h, State.decrementTimers_eq]

theorem State.toNat_endTick_timers (h : s.status = .live) :
    s.endTick.dt.toNat = (if s.paused then s.dt.toNat else s.dt.toNat - 1) ∧
      s.endTick.st.toNat = (if s.paused then s.st.toNat else s.st.toNat - 1) := by
  rw [State.endTick_eq h]
  cases s.paused
  case false => exact ⟨toNat_countDown s.dt, toNat_countDown s.st⟩
  case true => exact ⟨rfl, rfl⟩

/-- The end of a tick leaves the timers of a paused or fatal instance (R116, R118, R128). -/
theorem State.endTick_keeps_timers (h : s.status = .live → s.paused = true) :
    s.endTick.dt = s.dt ∧ s.endTick.st = s.st := by
  cases hs : s.status with
  | live =>
    rw [State.endTick_eq hs, if_pos (h hs), if_pos (h hs)]
    exact ⟨rfl, rfl⟩
  | fatal r =>
    rw [State.endTick_fatal hs]
    exact ⟨rfl, rfl⟩

theorem State.endTick_keys (s : State) : s.endTick.keys = s.keys := by
  cases hs : s.status with
  | live => rw [State.endTick_eq hs]
  | fatal r => rw [State.endTick_fatal hs]

/-- The result of a tick shows the state at its end (R131, R133). -/
theorem State.endTick_out (h : s.status = .live) : s.endTick.out = some s.endTick.tickResult := by
  rw [State.endTick_live h]
  rfl

/-! ### A halt loop -/

theorem State.not_running_of_fatal {r : FatalReason} (h : s.status = .fatal r) : s.running = false := by
  simp [State.running, h]

/-- A halt loop rests on the pc, memory and the run mode (R139). -/
theorem State.haltLoop_of_eq (h : s.haltLoop) (hcfg : t.cfg = s.cfg) (hmem : t.mem = s.mem) (hpc : t.pc = s.pc)
    (hstatus : t.status = s.status) (hpaused : t.paused = s.paused) (hwaiting : t.waiting = s.waiting) :
    t.haltLoop := by
  obtain ⟨hr, nnn, w, hf, hd, hn⟩ := h
  refine ⟨?_, nnn, w, ?_, hcfg ▸ hd, hpc ▸ hn⟩
  · rw [← hr, State.running, State.running, hstatus, hpaused, hwaiting]
  · simpa only [State.fetch_eq, State.byteAt, hcfg, hmem, hpc] using hf

/-- The cycle of a halt loop jumps to where it is (R139). -/
theorem exec_jp_self {p : Phase} {nnn : Imm12} (h : nnn.toNat = s.pc.toNat) :
    exec (.jp nnn) { s with phase := p, pc := s.pc + 2 } = .next { s with phase := p } := by
  have hpc : immAddr nnn = s.pc := BitVec.eq_of_toNat_eq ((toNat_immAddr nnn).trans h)
  rw [exec_of_no_fatalCondition rfl, effect, hpc]
  rfl

end

end Sys2Proof.Machine

/-! The obligations about one step and the host's calls. -/

namespace Sys2Proof.Proofs

open Sys2Proof Sys2Proof.Machine

/-- Settles O6: the two bytes that decode are the word fetched. -/
theorem stepRunsDecodedInstruction : Obligations.StepRunsDecodedInstruction := fun _ _ _ hp hr hpc hdecode =>
  (step_of_fetch hp hr (State.fetch_of_lt (by omega))).1 _ (decode_two_ok.1 hdecode)

/-- Settles O9: neither a paused nor a waiting instance is running. -/
theorem skippedSlotExecutesNothing : Obligations.SkippedSlotExecutesNothing := by
  intro s k hp hskip
  apply step_skip hp
  rw [← Bool.not_eq_true, State.running_iff]
  rintro ⟨-, hpaused, hwaiting⟩
  simp [hpaused, hwaiting] at hskip

/-- Settles O11. -/
theorem tickEndDecrementsTimers : Obligations.TickEndDecrementsTimers := by
  intro s hp hs
  obtain ⟨hdt, hst⟩ := State.toNat_endTick_timers hs
  refine ⟨_, step_endTick hp, hdt, hst, ?result, ?frame⟩
  case result =>
    rw [State.endTick_out hs, State.endTick_eq hs]
    rfl
  case frame => rw [State.endTick_eq hs]

/-- Settles O13, by whether the resolution takes place. -/
theorem tickStartResolvesKeyWait : Obligations.TickStartResolvesKeyWait := by
  intro s keysNow pressed rest hp hs hc
  refine ⟨_, step_tick hp hc, ?resolved, ?ignored, State.beginTick_eq (s := { s with calls := rest }) hs _ _⟩
  case resolved =>
    rintro x k hpaused hwaiting rfl
    exact State.reg_beginTick_resolves (s := { s with calls := rest }) hs hpaused hwaiting keysNow
  case ignored =>
    intro hno
    rw [State.beginTick_ignores (s := { s with calls := rest }) hs hno]
    exact ⟨fun _ => rfl, rfl⟩

/-- Settles O14: of all steps only the start of a tick and a construction write the key table. -/
theorem keyTableChangesOnlyAtTickStart : Obligations.KeyTableChangesOnlyAtTickStart := by
  intro s t h hne
  cases stepTo_of_step h with
  | freeTick hp hc => exact ⟨hp, .inr (.inl ⟨hc, (State.beginTick_keys ..).resolve_left hne⟩)⟩
  | @tick _ pressed rest hp hc =>
    refine ⟨hp, .inl ⟨pressed, rest, ?_⟩⟩
    rw [(State.beginTick_keys ..).resolve_left hne]
    exact hc
  | togglePause | quit => exact absurd rfl hne
  | reset hp hc => exact ⟨hp, .inr (.inr ⟨_, hc⟩)⟩
  | endTick => exact absurd s.endTick_keys hne
  | slot _ hslot =>
    cases hslot with
    | skip | fetchFault | invalid => exact absurd rfl hne
    | execute _ _ _ _ hexec =>
      obtain ⟨hkeys, -⟩ := instructionsLeaveHostState _ _ _ hexec
      exact absurd hkeys hne

/-- Settles O12: of all steps only a tick's end, a construction, Fx15 and Fx18 write the timers. -/
theorem timersChangeNowhereElse : Obligations.TimersChangeNowhereElse := by
  intro s t h hne
  have hchanged : ¬ (t.dt = s.dt ∧ t.st = s.st) := by rwa [not_and_or]
  cases stepTo_of_step h with
  | freeTick | tick => exact absurd (State.beginTick_timers ..) hchanged
  | togglePause | quit => exact absurd ⟨rfl, rfl⟩ hchanged
  | reset hp hc => exact .inr (.inl ⟨hp, _, hc⟩)
  | endTick hp =>
    obtain ⟨hs, hpaused⟩ := Classical.not_imp.1 (mt State.endTick_keeps_timers hchanged)
    exact .inl ⟨hp, hs, Bool.eq_false_iff.2 hpaused⟩
  | slot hp hslot =>
    cases hslot with
    | skip | fetchFault | invalid => exact absurd ⟨rfl, rfl⟩ hchanged
    | execute hr _ hf hd hexec =>
      obtain ⟨-, -, -, -, hdt, hst, -⟩ := onlyListedInstructionsWriteOtherState _ _ _ hexec
      right; right
      obtain hne | hne := hne
      · obtain ⟨x, rfl⟩ := hdt hne
        exact ⟨_, _, x, hp, hr, hf, .inl hd⟩
      · obtain ⟨x, rfl⟩ := hst hne
        exact ⟨_, _, x, hp, hr, hf, .inr hd⟩

/-- Settles O15: the start of a tick on the free values. -/
theorem unqueuedTickTakesFreeInputs : Obligations.UnqueuedTickTakesFreeInputs := by
  intro s hp hs hc
  refine ⟨_, step_freeTick hp hc, ?_⟩
  have heq := State.beginTick_eq (s := { s with frames := s.frames + 1 }) hs (Config.frameKeys s.frames)
    (Config.framePress s.frames)
  refine ⟨by rw [heq], by rw [heq], by rw [heq], by rw [heq], by rw [heq]; exact hc, fun x hpaused hwaiting => ?_⟩
  cases Config.framePress s.frames with
  | none =>
    rw [State.beginTick_ignores (s := { s with frames := s.frames + 1 }) hs (.inr (.inr rfl))]
    exact ⟨rfl, hwaiting⟩
  | some k =>
    obtain ⟨hx, -, hnone⟩ :=
      State.reg_beginTick_resolves (s := { s with frames := s.frames + 1 }) hs hpaused hwaiting _
    exact ⟨hx, hnone⟩

/-- Settles O16. -/
theorem pauseToggleFlipsPausedOnly : Obligations.PauseToggleFlipsPausedOnly := fun s =>
  ⟨fun _ => step_togglePause, fun k hp hpaused => skippedSlotExecutesNothing s k hp (.inl hpaused),
    fun hp hpaused => ⟨_, step_endTick hp, State.endTick_keeps_timers fun _ => hpaused⟩⟩

/-- Settles O18. -/
theorem quitEndsTheTicks : Obligations.QuitEndsTheTicks := fun _ _ hp hc =>
  ⟨_, step_quit hp hc, step_stopped rfl⟩

/-- Settles O19: a tick starts and ends without effect on a fatal instance, and no cycle of it runs. -/
theorem fatalStatusIsFinal : Obligations.FatalStatusIsFinal := by
  intro s t r hs h
  cases stepTo_of_step h with
  | freeTick =>
    rw [State.beginTick_fatal (s := { s with frames := s.frames + 1 }) hs]
    exact .inr rfl
  | @tick _ _ rest =>
    rw [State.beginTick_fatal (s := { s with calls := rest }) hs]
    exact .inr rfl
  | togglePause | quit => exact .inr rfl
  | reset hp hc => exact .inl ⟨_, hp, hc⟩
  | endTick =>
    rw [State.endTick_fatal hs]
    exact .inr rfl
  | slot _ hslot =>
    have hstopped := State.not_running_of_fatal hs
    cases hslot with
    | skip => exact .inr rfl
    | fetchFault hr | invalid hr | execute hr => cases hr.symm.trans hstopped

/-- Settles O59: the cycle of a halt loop gives back the state, and a tick begins with no wait to resolve. -/
theorem haltLoopPersists : Obligations.HaltLoopPersists := by
  intro s t hloop h hcalls
  have ⟨hr, nnn, w, hf, hd, hn⟩ := hloop
  obtain ⟨hs, -, hwaiting⟩ := s.running_iff.1 hr
  cases stepTo_of_step h with
  | freeTick hp =>
    rw [State.beginTick_ignores (s := { s with frames := s.frames + 1 }) hs (.inr (.inl hwaiting))]
    exact ⟨State.haltLoop_of_eq hloop rfl rfl rfl rfl rfl rfl, rfl, by simp [hp]⟩
  | @tick _ _ rest hp =>
    rw [State.beginTick_ignores (s := { s with calls := rest }) hs (.inr (.inl hwaiting))]
    exact ⟨State.haltLoop_of_eq hloop rfl rfl rfl rfl rfl rfl, rfl, by simp [hp]⟩
  | togglePause hp hc | reset hp hc | quit hp hc => simp [hp, hc] at hcalls
  | endTick hp =>
    rw [State.endTick_eq hs]
    exact ⟨State.haltLoop_of_eq hloop rfl rfl rfl rfl rfl rfl, rfl, by simp [hp]⟩
  | slot _ hslot =>
    cases hslot with
    | skip => exact ⟨State.haltLoop_of_eq hloop rfl rfl rfl rfl rfl rfl, rfl, fun _ => rfl⟩
    | fetchFault _ _ hf' => cases hf.symm.trans hf'
    | invalid _ _ hf' hd' =>
      cases hf.symm.trans hf'
      cases hd.symm.trans hd'
    | execute _ _ hf' hd' hexec =>
      cases hf.symm.trans hf'
      cases hd.symm.trans hd'
      cases (exec_jp_self hn).symm.trans hexec
      exact ⟨State.haltLoop_of_eq hloop rfl rfl rfl rfl rfl rfl, rfl, fun _ => rfl⟩

end Sys2Proof.Proofs

/-! SUPPORT. The parts of the invariant through the effect of an instruction (10_state.md R20, R24, R26, R35). -/

namespace Sys2Proof.Machine

section
variable {s : State} {i : Instr}

/-! ### The effect of an instruction on each part -/

/-- The blocks stored lie in memory, where no fatal condition is met (R35, R108). -/
theorem effect_mem_wf (hm : s.mem.wf s.cfg = true) (hf : fatalCondition s i = none) :
    (effect s i).mem.wf s.cfg = true := by
  cases i
  case ldBcd x =>
    have hi : s.i.toNat + 2 < 4096 := by
      by_contra h
      cases (if_neg h).symm.trans hf
    exact State.storeBytes_wf hm _ _ (by rw [length_decimalDigits]; omega)
  case storeRegs x =>
    have hi : s.i.toNat + x.toNat < 4096 := by simpa [fatalCondition] using hf
    exact State.storeBytes_wf hm _ _ (by rw [State.length_regsUpTo]; omega)
  all_goals simpa [effect] using hm

/-- Every write to I is reduced modulo 4096 (R20). -/
theorem toNat_setIndex_lt (s : State) (n : Nat) : (s.setIndex n).i.toNat < 4096 := by
  have := Nat.mod_lt n (show 0 < memSize by decide)
  rw [State.setIndex_i, BitVec.toNat_ofNat]
  exact (Nat.mod_le ..).trans_lt this

theorem effect_i_lt (hi : s.i.toNat < 4096) : (effect s i).i.toNat < 4096 := by
  obtain ⟨-, -, hsame, -⟩ := frameExcept_effect s i
  by_cases hw : .i ∈ writtenParts i
  · obtain ⟨nnn, rfl⟩ | ⟨x, rfl | rfl⟩ := i_mem_writtenParts.1 hw <;> exact toNat_setIndex_lt ..
  · rwa [hsame hw]

theorem skipIf_pc_lt (hpc : s.pc.toNat ≤ 0x1000) (b : Bool) : (s.skipIf b).pc.toNat < 0x10FF := by
  rw [State.skipIf_pc]
  split
  · rw [BitVec.toNat_add]
    exact (Nat.mod_le ..).trans_lt (by simp; omega)
  · omega

/-- From the pc after a fetch in memory, an instruction leaves the pc, skips, jumps below 0x1000 plus a byte, or returns
to an address that was pushed (R24). -/
theorem effect_pc_lt (hpc : s.pc.toNat ≤ 0x1000) (hstack : ∀ a ∈ s.stack, a.toNat ≤ 0x1000)
    (hf : fatalCondition s i = none) : (effect s i).pc.toNat < 0x10FF := by
  obtain ⟨-, hsame, -⟩ := frameExcept_effect s i
  cases i
  case jp nnn | call nnn =>
    have := nnn.isLt
    exact (toNat_immAddr nnn).trans_lt (by omega)
  case jpV0 nnn =>
    have := nnn.isLt
    have := (s.reg 0).isLt
    exact (toNat_immAddr_add nnn (s.reg 0)).trans_lt (by omega)
  case seImm | sneImm | seReg | sneReg | skp | sknp => exact skipIf_pc_lt hpc _
  case ret =>
    obtain hnil | ⟨l, a, hs⟩ := List.eq_nil_or_concat' s.stack
    · simp [fatalCondition, hnil] at hf
    · have ha : (effect s .ret).pc = a := by simp [effect, hs]
      rw [ha]
      exact (hstack a (by simp [hs])).trans_lt (by decide)
  all_goals
    rw [hsame (by simp [writtenParts])]
    omega

/-- The stack grows by the pc, where there is room, or shrinks (R26). -/
theorem effect_stack (hpc : s.pc.toNat ≤ 0x1000) (hlen : s.stack.length ≤ s.cfg.stackDepth)
    (hstack : ∀ a ∈ s.stack, a.toNat ≤ 0x1000) (hf : fatalCondition s i = none) :
    (effect s i).stack.length ≤ s.cfg.stackDepth ∧ ∀ a ∈ (effect s i).stack, a.toNat ≤ 0x1000 := by
  obtain ⟨-, -, -, hsame, -⟩ := frameExcept_effect s i
  by_cases hw : .stack ∈ writtenParts i
  · obtain rfl | ⟨nnn, rfl⟩ := stack_mem_writtenParts.1 hw
    · have he : (effect s .ret).stack = s.stack.dropLast := rfl
      rw [he, List.length_dropLast]
      exact ⟨by omega, fun a ha => hstack a (List.mem_of_mem_dropLast ha)⟩
    · have he : (effect s (.call nnn)).stack = s.stack ++ [s.pc] := rfl
      have hroom : s.stack.length < s.cfg.stackDepth := by simpa [fatalCondition] using hf
      rw [he, List.length_append]
      refine ⟨hroom, fun a ha => ?_⟩
      obtain ha | ha := List.mem_append.1 ha
      · exact hstack a ha
      · exact List.mem_singleton.1 ha ▸ hpc
  · rw [hsame hw]
    exact ⟨hlen, hstack⟩

/-! ### The invariant through each kind of step -/

/-- An instruction keeps the invariant from the pc after a fetch in memory. -/
theorem effect_inv (hs : s.Inv) (hpc : s.pc.toNat ≤ 0x1000) (hf : fatalCondition s i = none) : (effect s i).Inv := by
  obtain ⟨hcfg, hmem, hi, -, hlen, hstack, hrom, hslots⟩ := hs
  obtain ⟨-, -, -, -, -, -, -, -, -, -, -, -, -, -, -, hcfg', hrom', hout', -⟩ := frameExcept_effect s i
  obtain ⟨hstatus', hphase'⟩ := effect_status_phase s i
  obtain ⟨hlen', hstack'⟩ := effect_stack hpc hlen hstack hf
  rw [State.Inv, hcfg', hrom', hout', hstatus', hphase']
  exact ⟨hcfg, effect_mem_wf hmem hf, effect_i_lt hi, effect_pc_lt hpc hstack hf, hlen', hstack', hrom, hslots⟩

/-- The invariant does not speak of the registers, the timers, the screen, the keys, the log or the host's side, and
outside a tick it does not speak of the status or the result. -/
theorem State.Inv.of_eq {t : State} (hs : s.Inv) (hcfg : t.cfg = s.cfg) (hmem : t.mem = s.mem) (hi : t.i = s.i)
    (hpc : t.pc.toNat < 0x10FF) (hstack : t.stack = s.stack) (hrom : t.rom = s.rom)
    (hslots : ∀ k, t.phase = .slots k → t.status = .live ∧ k ≤ s.cfg.ipt ∧ t.out = none) : t.Inv := by
  obtain ⟨hcfg', hmem', hi', -, hlen', hstack', hrom', -⟩ := hs
  rw [State.Inv, hcfg, hmem, hi, hstack, hrom]
  exact ⟨hcfg', hmem', hi', hpc, hlen', hstack', hrom', hslots⟩

theorem State.Inv.pc_lt (hs : s.Inv) : s.pc.toNat < 0x10FF := by
  obtain ⟨-, -, -, hpc, -⟩ := hs
  exact hpc

theorem State.Inv.slots (hs : s.Inv) {k : Nat} (hp : s.phase = .slots k) :
    s.status = .live ∧ k ≤ s.cfg.ipt ∧ s.out = none := by
  obtain ⟨-, -, -, -, -, -, -, hslots⟩ := hs
  exact hslots k hp

/-- A fatal condition ends the tick, so the invariant has nothing more to say of it (R118). -/
theorem State.Inv.raiseFatal (hs : s.Inv) (r : FatalReason) : (s.raiseFatal r).Inv :=
  hs.of_eq rfl rfl rfl hs.pc_lt rfl rfl nofun

theorem State.Inv.beginTick (hs : s.Inv) (keysNow : KeyTable) (pressed : Option Reg) :
    (s.beginTick keysNow pressed).Inv := by
  cases h : s.status with
  | live =>
    rw [State.beginTick_eq h]
    refine hs.of_eq rfl rfl rfl hs.pc_lt rfl rfl fun k hk => ?_
    cases hk
    exact ⟨h, Nat.le_refl _, rfl⟩
  | fatal r => rwa [State.beginTick_fatal h]

theorem State.Inv.endTick (hs : s.Inv) : s.endTick.Inv := by
  cases h : s.status with
  | live =>
    rw [State.endTick_eq h]
    exact hs.of_eq rfl rfl rfl hs.pc_lt rfl rfl nofun
  | fatal r =>
    rw [State.endTick_fatal h]
    exact hs.of_eq rfl rfl rfl hs.pc_lt rfl rfl nofun

/-- The pc after a fetch in memory (R22, R42). -/
theorem toNat_pc_add_two (hpc : s.pc.toNat < 0xFFF) : (s.pc + 2).toNat ≤ 0x1000 := by
  rw [BitVec.toNat_add]
  exact (Nat.mod_le ..).trans (by simp; omega)

/-- Using up a slot, with the pc moved or not, keeps the invariant. -/
theorem State.Inv.useSlot (hs : s.Inv) {k : Nat} (hp : s.phase = .slots (k + 1)) {a : Word} (ha : a.toNat < 0x10FF) :
    State.Inv { s with phase := .slots k, pc := a } := by
  obtain ⟨hlive, hk, hout⟩ := hs.slots hp
  refine hs.of_eq rfl rfl rfl ha rfl rfl fun j hj => ?_
  cases hj
  exact ⟨hlive, Nat.le_of_succ_le hk, hout⟩

/-- A cycle slot keeps the invariant. -/
theorem State.Inv.slotTo {t : State} (hs : s.Inv) {k : Nat} (hp : s.phase = .slots (k + 1)) (h : SlotTo s k t) :
    t.Inv := by
  cases h with
  | skip => exact hs.useSlot hp hs.pc_lt
  | fetchFault => exact hs.raiseFatal _
  | invalid _ hpc =>
    have hnext := hs.useSlot hp ((toNat_pc_add_two hpc).trans_lt (by decide))
    exact hnext.of_eq rfl rfl rfl hnext.pc_lt rfl rfl fun _ => hnext.slots
  | execute _ hpc _ _ hexec =>
    have hnext := hs.useSlot hp ((toNat_pc_add_two hpc).trans_lt (by decide))
    obtain ⟨r, -, rfl⟩ | ⟨hf, rfl⟩ := next_cases hexec
    · exact hnext.raiseFatal r
    · exact effect_inv hnext (toNat_pc_add_two hpc) hf

end

end Sys2Proof.Machine

namespace Sys2Proof.Proofs

open Sys2Proof Sys2Proof.Machine

/-- Settles O22, by what the step did: a host call, a tick's end, or a cycle slot. -/
theorem stepKeepsInvariant : Obligations.StepKeepsInvariant := by
  intro s t hs h
  cases stepTo_of_step h with
  | freeTick =>
    have hnext : State.Inv { s with frames := s.frames + 1 } := hs
    exact hnext.beginTick _ _
  | @tick _ _ rest =>
    have hnext : State.Inv { s with calls := rest } := hs
    exact hnext.beginTick _ _
  | togglePause => exact hs
  | reset _ _ ht =>
    have hnew := State.construct_inv ht
    exact hnew
  | quit => exact hs.of_eq rfl rfl rfl hs.pc_lt rfl rfl nofun
  | endTick => exact hs.endTick
  | slot hp hslot => exact hs.slotTo hp hslot

end Sys2Proof.Proofs

/-! SUPPORT. A transfer to an address the fetch cannot read from, the words of format NNN as numbers, and a word fetched
after a store (30_encoding.md R58, 20_memory.md R55, 41_control_flow.md R78, R84). -/

namespace Sys2Proof.Machine

section
variable {s : State} {i : Instr}

/-- A jump sets the pc and nothing else, and a target past the last word is not fetched from (R78, R84). -/
theorem jumps_of_exec {a : Word} {n : Nat} (h : exec i s = .next (s.setPc a)) (ha : a.toNat = n) :
    ∃ t, exec i s = .next t ∧ t.pc.toNat = n ∧ (0xFFF ≤ n → t.fetch = none) ∧ FrameExcept s t [] [.pc] nowhere :=
  ⟨_, h, ha, fun hn => State.fetch_of_ge (ha ▸ hn), frameExcept_setPc ..⟩

/-- A register write whose bits are an operation of the operands' bits, and nothing else (R90 to R92). -/
theorem writesBits_of_exec {x : Reg} {b : Byte} {bit : Nat → Bool} (h : exec i s = .next (s.setReg x b))
    (hb : ∀ k, b.getLsbD k = bit k) :
    ∃ t, exec i s = .next t ∧ (∀ k, (t.reg x).getLsbD k = bit k) ∧ FrameExcept s t [x] [] nowhere := by
  refine ⟨_, h, fun k => ?_, frameExcept_setReg ..⟩
  rw [State.reg_setReg, if_pos rfl, hb]

/-- A block store is read by the fetch: the word at an address is made of the bytes stored there (R55). -/
theorem State.fetch_storeBytes (hw : s.mem.wf s.cfg = true) (bs : List Byte) {a k : Nat} (hk : k + 1 < bs.length)
    (h : a + bs.length ≤ 4096) (hpc : s.pc.toNat = a + k) :
    (s.storeBytes a bs).fetch = some (wordOfBytes bs[k] bs[k + 1]) := by
  have hpc' : (s.storeBytes a bs).pc.toNat = a + k := hpc
  rw [State.fetch_of_lt (by omega), hpc', State.byteAt_storeBytes_inside hw bs a k _ h, Nat.add_assoc,
    State.byteAt_storeBytes_inside hw bs a (k + 1) hk h]

/-- The key index policies in which a key skip is fatal (R113). -/
theorem keySkips_of_exec {x : Reg} {down : Bool} (h : exec i s = .next (s.keySkip x down)) :
    ((s.reg x).toNat ≤ 15 ∨ s.cfg.keyIndexPolicy = .lowNibble →
      exec i s = .next (s.skipIf (s.keyDown (BitVec.ofNat 4 (s.reg x).toNat) == down))) ∧
    (15 < (s.reg x).toNat → s.cfg.keyIndexPolicy = .fatal →
      RaisesFatal i s (.keyIndexOutOfRange (s.reg x))) := by
  rw [State.keySkip_eq] at h
  constructor
  · intro hok
    rw [h, if_neg]
    · rfl
    · rintro ⟨hp, hx⟩
      simp [hp, Nat.not_le.2 hx] at hok
  · intro hx hp
    rw [if_pos ⟨hp, hx⟩] at h
    exact raisesFatal_of_exec h

end

end Sys2Proof.Machine

/-! The obligations about single instructions. -/

namespace Sys2Proof.Proofs

open Sys2Proof Sys2Proof.Machine

/-- Settles O29: a 12-bit target and its sum with a byte both fit in the pc. -/
theorem jumpsSetPc : Obligations.JumpsSetPc := fun s nnn =>
  ⟨decodeWord_encode_of_wellFormed (i := .jp nnn) rfl, decodeWord_encode_of_wellFormed (i := .jpV0 nnn) rfl,
    jumps_of_exec rfl (toNat_immAddr nnn), jumps_of_exec rfl (toNat_immAddr_add nnn (s.reg 0))⟩

/-- Settles O31: RET pops what CALL pushed. -/
theorem returnUndoesCall : Obligations.ReturnUndoesCall := fun _ nnn h =>
  ⟨_, _, exec_call_of_lt nnn h, exec_ret_of_concat rfl, rfl⟩

/-- Settles O36: each is one register write, bit by bit. -/
theorem logicalOperations : Obligations.LogicalOperations := fun _ _ _ =>
  ⟨encodedAs_family8 0x1 rfl rfl, encodedAs_family8 0x2 rfl rfl, encodedAs_family8 0x3 rfl rfl,
    writesBits_of_exec rfl fun _ => BitVec.getLsbD_or, writesBits_of_exec rfl fun _ => BitVec.getLsbD_and,
    writesBits_of_exec rfl fun _ => BitVec.getLsbD_xor⟩

/-- Settles O42: the byte drawn is masked bit by bit, whatever it is. -/
theorem randomByteIsMasked : Obligations.RandomByteIsMasked := by
  intro s x kk
  have hreg : ((s.drawRandom.2).setReg x (s.drawRandom.1 &&& kk)).reg x = Config.randomByte s.draws &&& kk :=
    (State.reg_setReg ..).trans (if_pos rfl)
  refine ⟨decodeWord_encode_of_wellFormed (i := .rnd x kk) rfl, _, rfl, hreg, fun b hb => ?_, rfl,
    frameExcept_drawRandom_setReg ..⟩
  rw [hreg, BitVec.getLsbD_and, hb, Bool.and_false]

/-- Settles O43: a 12-bit address needs no reduction, and the sum is reduced. -/
theorem indexLoadAndAdd : Obligations.IndexLoadAndAdd := by
  intro s nnn x
  refine ⟨decodeWord_encode_of_wellFormed (i := .ldIndex nnn) rfl, encodedAs_xkk 0xF 0x1E rfl rfl,
    ⟨_, rfl, State.toNat_setIndex_of_lt nnn.isLt, frameExcept_setIndex ..⟩, ⟨_, rfl, ?_, frameExcept_setIndex ..⟩⟩
  rw [State.setIndex_i, BitVec.toNat_ofNat, memSize]
  omega

/-- Settles O48: the registers stored are the bytes fetched. -/
theorem storedBytesAreFetched : Obligations.StoredBytesAreFetched := by
  intro s t x k hw hi hk h hpc
  have hx := x.isLt
  have hlen := s.length_regsUpTo x
  have hsucc : (k + 1).toNat = k.toNat + 1 := by
    rw [BitVec.toNat_add]
    exact Nat.mod_eq_of_lt (by simp; omega)
  cases (exec_storeRegs_of_lt hi).symm.trans h
  refine ⟨_, State.fetch_storeBytes hw _ (k := k.toNat) (by omega) (by omega) hpc, ?_⟩
  have hnext := s.getElem_regsUpTo x (k + 1) (by omega)
  simp only [hsucc] at hnext
  rw [toNat_wordOfBytes, State.getElem_regsUpTo, hnext]

/-- Settles O49: the index policy decides between a skip and the fatal condition. -/
theorem keySkips : Obligations.KeySkips := by
  intro s x
  obtain ⟨hskp, hskpFatal⟩ := keySkips_of_exec (i := .skp x) (s := s) (down := true) rfl
  obtain ⟨hsknp, hsknpFatal⟩ := keySkips_of_exec (i := .sknp x) (s := s) (down := false) rfl
  refine ⟨encodedAs_xkk 0xE 0x9E rfl rfl, encodedAs_xkk 0xE 0xA1 rfl rfl, fun hok => ⟨?skp, ?sknp⟩,
    fun hx hp => ⟨hskpFatal hx hp, hsknpFatal hx hp⟩⟩
  case skp => exact skips_of_exec (hskp hok) beq_iff_eq
  case sknp =>
    obtain ⟨t, ht, hpc, hframe⟩ := skips_of_exec (hsknp hok) (beq_iff_eq.trans (Bool.not_eq_true _).symm.to_iff)
    exact ⟨t, ht, by rw [hpc, ite_not], hframe⟩

/-- Settles O50: the wait is the one write, and an instance that waits is not running. -/
theorem keyWaitIsEntered : Obligations.KeyWaitIsEntered := by
  intro s x
  refine ⟨encodedAs_xkk 0xF 0x0A rfl rfl, s.awaitKey x, rfl, rfl, ?running, fun hp => ?mode, frameExcept_awaitKey ..⟩
  case running => exact Bool.and_false _
  case mode =>
    have hp' : (s.awaitKey x).paused = false := hp
    rw [State.runMode, hp']
    rfl

end Sys2Proof.Proofs

/-! SUPPORT. A drawn sprite in the words of the statements, and the effect of an instruction under another operand order
(40_display.md R72 to R76, 42_alu.md R98). -/

namespace Sys2Proof.Machine

section
variable {s t : State} {px py n x y : Nat}

/-! ### A sprite drawn from memory -/

theorem RowsCover_bytesAt :
    RowsCover px py (s.bytesAt s.i.toNat n) x y ↔ SpriteCovers s px py n (x % 64) (y % 32) := by
  simp only [RowsCover, SpriteCovers, spriteBit, State.getElem_bytesAt, State.length_bytesAt, exists_prop]

/-- A cell after a sprite: toggled where covered (R72). -/
theorem cellAt_drawSprite (hn : n < 32) :
    cellAt (s.drawSprite px py n).1 x y = true ↔
      ¬ (cellAt s.fb x y = true ↔ SpriteCovers s px py n (x % 64) (y % 32)) := by
  rw [State.drawSprite, cellAt_drawRows px py (by rwa [State.length_bytesAt]), RowsCover_bytesAt]

/-- The collision flag of a sprite (R76). -/
theorem collided_drawSprite (hn : n < 32) : (s.drawSprite px py n).2 = true ↔ SpriteCollides s px py n := by
  rw [State.drawSprite, collided_drawRows px py (by rwa [State.length_bytesAt])]
  simp only [Bool.false_eq_true, false_or, RowsCover_bytesAt, SpriteCollides]
  constructor
  · rintro ⟨x, y, hc, hx⟩
    exact ⟨x % 64, y % 32, Nat.mod_lt _ (by decide), Nat.mod_lt _ (by decide), hc, (cellAt_mod s.fb x y).trans hx⟩
  · rintro ⟨x, y, hx, hy, hc, hcell⟩
    exact ⟨x, y, by rwa [Nat.mod_eq_of_lt hx, Nat.mod_eq_of_lt hy], hcell⟩

/-- What a sprite covers rests on memory and the index. -/
theorem SpriteCovers_congr (hb : ∀ a, t.byteAt a = s.byteAt a) (hi : t.i = s.i) :
    SpriteCovers t px py n x y ↔ SpriteCovers s px py n x y := by
  simp only [SpriteCovers, hb, hi]

/-- DRW with its rows in memory draws the sprite and writes its collision to VF (R72, R108). -/
theorem exec_drw_of_le {x y : Reg} {n : Nibble} (h : n.toNat = 0 ∨ s.i.toNat + n.toNat ≤ 4096) :
    exec (.drw x y n) s = .next ((s.setFb (s.drawSprite (s.reg x).toNat (s.reg y).toNat n.toNat).1).setReg vf
      (flagByte (s.drawSprite (s.reg x).toNat (s.reg y).toNat n.toNat).2)) :=
  exec_of_no_fatalCondition (if_pos h)

/-! ### States that differ in what an instruction does not look at -/

theorem State.bytesAt_congr (hb : ∀ a, t.byteAt a = s.byteAt a) (a n : Nat) : t.bytesAt a n = s.bytesAt a n := by
  induction n generalizing a with
  | zero => rfl
  | succ n ih => rw [State.bytesAt, State.bytesAt, hb, ih]

/-- What a sprite draws rests on memory, the index and the screen. -/
theorem State.drawSprite_congr (hb : ∀ a, t.byteAt a = s.byteAt a) (hi : t.i = s.i) (hf : t.fb = s.fb) :
    t.drawSprite px py n = s.drawSprite px py n := by
  rw [State.drawSprite, State.drawSprite, State.bytesAt_congr hb, hi, hf]

/-- A block store rests on what the configuration has memory read as at construction. -/
theorem Memory.writeBlock_congr {c c' : Config} (h : ∀ a, c'.initialByte a = c.initialByte a) (m : Memory) (a : Nat)
    (bs : List Byte) : m.writeBlock c' a bs = m.writeBlock c a bs := by
  induction bs generalizing m a with
  | nil => rfl
  | cons b bs ih => rw [Memory.writeBlock, Memory.writeBlock, Memory.write, Memory.write, h, ih]

end

/-! ### The two operand orders -/

/-- The state under another operand order (R98). -/
def State.withOrder (s : State) (o : FlagOperandOrder) : State :=
  { s with cfg := { s.cfg with flagOperandOrder := o } }

section
variable {s : State} {o : FlagOperandOrder} {x y : Reg} {i : Instr}

theorem skipIf_withOrder (b : Bool) : (s.withOrder o).skipIf b = (s.skipIf b).withOrder o := by
  cases b <;> rfl

theorem storeBytes_withOrder (a : Nat) (bs : List Byte) :
    (s.withOrder o).storeBytes a bs = (s.storeBytes a bs).withOrder o := by
  have hmem := Memory.writeBlock_congr (c := s.cfg) (c' := (s.withOrder o).cfg) (fun _ => rfl) s.mem a bs
  exact congrArg (fun m => State.withOrder { s with mem := m } o) hmem

/-- A flag-setting operation whose result the flag does not change does not see the order (R98). -/
theorem flagThenResult_eq_setReg {flag result : Byte → Byte → Byte}
    (h : result ((s.setReg vf (flag (s.reg x) (s.reg y))).reg x) ((s.setReg vf (flag (s.reg x) (s.reg y))).reg y) =
      result (s.reg x) (s.reg y)) :
    s.flagThenResult x y flag result =
      (s.setReg vf (flag (s.reg x) (s.reg y))).setReg x (result (s.reg x) (s.reg y)) := by
  unfold State.flagThenResult
  cases s.cfg.flagOperandOrder
  · rfl
  · exact congrArg (State.setReg _ x) h

theorem flagThenResult_withOrder {flag result : Byte → Byte → Byte}
    (h : ∀ f, result ((s.setReg vf f).reg x) ((s.setReg vf f).reg y) = result (s.reg x) (s.reg y)) :
    (s.withOrder o).flagThenResult x y flag result = (s.flagThenResult x y flag result).withOrder o := by
  rw [flagThenResult_eq_setReg (h _), flagThenResult_eq_setReg (s := s.withOrder o) (h _)]
  rfl

/-- A difference does not see the flag when neither or both of its operands are VF. -/
theorem sub_reg_setReg_vf (h : x = vf ↔ y = vf) (f : Byte) :
    (s.setReg vf f).reg x - (s.setReg vf f).reg y = s.reg x - s.reg y := by
  by_cases hx : x = vf
  · obtain rfl := hx
    obtain rfl := h.1 rfl
    rw [BitVec.sub_self, BitVec.sub_self]
  · rw [State.reg_setReg, if_neg hx, State.reg_setReg, if_neg (mt h.2 hx)]

theorem fatalCondition_withOrder : fatalCondition (s.withOrder o) i = fatalCondition s i := by
  cases i <;> rfl

/-- Outside the cases listed, the effect of an instruction does not see the order (R98). -/
theorem effect_withOrder (hsub : ∀ x y, i = .subReg x y ∨ i = .subnReg x y → (x = vf ↔ y = vf))
    (hshift : ∀ x y, i = .shr x y ∨ i = .shl x y → x ≠ vf) :
    effect (s.withOrder o) i = (effect s i).withOrder o := by
  cases i <;> simp only [effect]
  case subReg x y =>
    exact flagThenResult_withOrder fun f => sub_reg_setReg_vf (hsub x y (.inl rfl)) f
  case subnReg x y =>
    exact flagThenResult_withOrder fun f => sub_reg_setReg_vf (hsub x y (.inr rfl)).symm f
  case shr x y =>
    have hx := hshift x y (.inl rfl)
    exact flagThenResult_withOrder fun f => by rw [State.reg_setReg, if_neg hx]
  case shl x y =>
    have hx := hshift x y (.inr rfl)
    exact flagThenResult_withOrder fun f => by rw [State.reg_setReg, if_neg hx]
  case seImm | sneImm | seReg | sneReg | skp | sknp => exact skipIf_withOrder _
  case ldBcd | storeRegs => exact storeBytes_withOrder ..
  case drw x y n =>
    have hdraw := State.drawSprite_congr (s := s) (t := s.withOrder o) (px := (s.reg x).toNat) (py := (s.reg y).toNat)
      (n := n.toNat) (fun _ => rfl) rfl rfl
    exact congrArg (fun d => (((s.withOrder o).setFb d.1).setReg vf (flagByte d.2))) hdraw
  all_goals rfl

end

end Sys2Proof.Machine

/-! The obligations about Dxyn and the operand orders. -/

namespace Sys2Proof.Proofs

open Sys2Proof Sys2Proof.Machine

/-- Settles O26: a nibble of rows is fewer than the screen has, so no cell is toggled twice. -/
theorem drawTogglesCoveredCells : Obligations.DrawTogglesCoveredCells := by
  intro s x y n
  have hn : n.toNat < 32 := n.isLt.trans (by decide)
  refine ⟨decodeWord_encode_of_wellFormed (i := .drw x y n) rfl, fun hrows => ?draws, fun hpos hover => ?fatal⟩
  case fatal => exact raisesFatal_of_exec (exec_of_fatalCondition (if_neg (by omega)))
  case draws =>
    have hvf := State.reg_setReg (s.setFb (s.drawSprite (s.reg x).toNat (s.reg y).toNat n.toNat).1) vf vf
      (flagByte (s.drawSprite (s.reg x).toNat (s.reg y).toNat n.toNat).2)
    rw [if_pos rfl] at hvf
    refine ⟨_, exec_drw_of_le hrows, fun cx cy hx hy => ?cells, fun h => ?hit, fun h => ?miss,
      frameExcept_setFb_setReg ..⟩
    case cells =>
      refine (cellAt_drawSprite hn).trans ?_
      rw [Nat.mod_eq_of_lt hx, Nat.mod_eq_of_lt hy]
    case hit => rw [hvf, (collided_drawSprite hn).2 h, flagByte, if_pos rfl]
    case miss => rw [hvf, Bool.eq_false_iff.2 (mt (collided_drawSprite hn).1 h), flagByte, if_neg Bool.false_ne_true]

/-- The next state of a draw whose rows lie in memory, in the words of O26. -/
theorem drawn_of_exec {s t : State} {x y : Reg} {n : Nibble} (hrows : n.toNat = 0 ∨ s.i.toNat + n.toNat ≤ 4096)
    (h : exec (.drw x y n) s = .next t) :
    (∀ cx cy, cx < 64 → cy < 32 →
      (cellAt t.fb cx cy = true ↔
        ¬ (cellAt s.fb cx cy = true ↔ SpriteCovers s (s.reg x).toNat (s.reg y).toNat n.toNat cx cy))) ∧
    (t.reg vf = 1 ↔ SpriteCollides s (s.reg x).toNat (s.reg y).toNat n.toNat) ∧
    FrameExcept s t [vf] [.fb] nowhere := by
  obtain ⟨-, hdraws, -⟩ := drawTogglesCoveredCells s x y n
  obtain ⟨t', ht', hcells, hhit, hmiss, hframe⟩ := hdraws hrows
  cases ht'.symm.trans h
  refine ⟨hcells, ⟨fun hone => by_contra fun hno => ?_, hhit⟩, hframe⟩
  rw [hmiss hno] at hone
  exact absurd hone (by decide)

/-- Settles O27: the second draw reads the same sprite and the same coordinates, so it toggles the same cells, and it
clears those that the first one set. -/
theorem drawTwiceRestoresFramebuffer : Obligations.DrawTwiceRestoresFramebuffer := by
  intro s t u x y n hx hy hrows ht hu
  obtain ⟨htcell, -, hreg, -, hi, -, -, -, -, -, -, -, -, -, hbyte, -⟩ := drawn_of_exec hrows ht
  have hi := hi (by simp)
  have hcovers (cx cy : Nat) :
      SpriteCovers t (t.reg x).toNat (t.reg y).toNat n.toNat cx cy ↔
        SpriteCovers s (s.reg x).toNat (s.reg y).toNat n.toNat cx cy := by
    rw [hreg x (mt List.mem_singleton.1 hx), hreg y (mt List.mem_singleton.1 hy)]
    exact SpriteCovers_congr (fun a => hbyte a id) hi
  obtain ⟨hucell, huvf, -⟩ := drawn_of_exec (hi ▸ hrows) hu
  constructor
  · refine fb_ext fun cx cy hcx hcy => Bool.eq_iff_iff.2 ?_
    rw [hucell cx cy hcx hcy, htcell cx cy hcx hcy, hcovers]
    tauto
  · rw [huvf, SpriteCollides]
    refine exists₂_congr fun cx cy => and_congr_right fun hcx => and_congr_right fun hcy => ?_
    rw [hcovers]
    refine and_congr_right fun hc => ?_
    rw [htcell cx cy hcx hcy, iff_true_right hc, Bool.not_eq_true]

/-- Settles O41: the order changes neither the fatal condition nor, outside the cases listed, the effect. -/
theorem operandOrdersAgreeElsewhere : Obligations.OperandOrdersAgreeElsewhere := by
  intro s t u i o hsub hshift ht hu
  have hu : exec i (s.withOrder o) = .next u := hu
  obtain ⟨r, hf, rfl⟩ | ⟨hf, rfl⟩ := next_cases ht
  · rw [exec_of_fatalCondition (fatalCondition_withOrder.trans hf)] at hu
    cases hu
    rfl
  · rw [exec_of_no_fatalCondition (fatalCondition_withOrder.trans hf), effect_withOrder hsub hshift] at hu
    cases hu
    rfl

end Sys2Proof.Proofs

/-! SUPPORT. The slots of a tick do not look at the place in the tick, so the machine's steps are the slots of the
spec's tick (60_exceptions.md R127, R149; log 4). -/

namespace Sys2Proof.Machine

section
variable {s t : State} {i : Instr}

/-! ### An instruction in another place of the tick -/

theorem skipIf_phase (p : Phase) (b : Bool) :
    State.skipIf { s with phase := p } b = { s.skipIf b with phase := p } := by
  cases b <;> rfl

theorem flagThenResult_phase (p : Phase) (x y : Reg) (flag result : Byte → Byte → Byte) :
    State.flagThenResult { s with phase := p } x y flag result =
      { s.flagThenResult x y flag result with phase := p } := by
  cases h : s.cfg.flagOperandOrder <;> simp only [State.flagThenResult, h] <;> rfl

/-- The effect of an instruction does not see the place in the tick. -/
theorem effect_phase (p : Phase) (i : Instr) : effect { s with phase := p } i = { effect s i with phase := p } := by
  cases i <;> simp only [effect]
  case seImm | sneImm | seReg | sneReg | skp | sknp => exact skipIf_phase ..
  case subReg | shr | subnReg | shl => exact flagThenResult_phase ..
  case drw x y n =>
    have hdraw := State.drawSprite_congr (s := s) (t := { s with phase := p }) (px := (s.reg x).toNat)
      (py := (s.reg y).toNat) (n := n.toNat) (fun _ => rfl) rfl rfl
    exact congrArg (fun d => ((State.setFb { s with phase := p } d.1).setReg vf (flagByte d.2))) hdraw
  all_goals rfl

theorem fatalCondition_phase (p : Phase) (i : Instr) :
    fatalCondition { s with phase := p } i = fatalCondition s i := by
  cases i <;> rfl

/-! ### A slot in another place of the tick -/

/-- What a slot leaves in another place of the tick: a fatal condition ends the tick wherever it is (R118). -/
def State.placedAt (t : State) (p : Phase) : State := if t.status = .live then { t with phase := p } else t

/-- An instruction of a live instance answers the same in another place of the tick, but for that place. -/
theorem exec_phase (hs : s.status = .live) (h : exec i s = .next t) (p : Phase) :
    exec i { s with phase := p } = .next (t.placedAt p) := by
  obtain ⟨r, hf, rfl⟩ | ⟨hf, rfl⟩ := next_cases h
  · exact exec_of_fatalCondition ((fatalCondition_phase p i).trans hf)
  · rw [exec_of_no_fatalCondition ((fatalCondition_phase p i).trans hf), effect_phase, State.placedAt, if_pos]
    rw [(effect_status_phase s i).1, hs]

/-- A slot of a live instance answers a next state, outside the ticks if it was, and in another place of the tick the
same state, but for that place (R118, R127). -/
theorem State.slot_next (hs : s.status = .live) :
    ∃ t, s.slot = .next t ∧ (s.phase = .between → t.phase = .between) ∧
      ∀ p, State.slot { s with phase := p } = .next (t.placedAt p) := by
  cases hr : s.running with
  | false =>
    refine ⟨s, State.slot_skip hr, id, fun p => ?_⟩
    rw [State.placedAt, if_pos hs]
    exact State.slot_skip hr
  | true =>
    have hslot (p : Phase) : State.slot { s with phase := p } = State.cycle { s with phase := p } := State.slot_run hr
    simp only [State.slot_run hr, hslot]
    obtain ⟨hf, h⟩ | ⟨w, hf, hd, h⟩ | ⟨w, i, hf, hd, h⟩ := s.cycle_cases
    · exact ⟨_, h, fun _ => rfl, fun p => State.cycle_of_fetch_none hf⟩
    · refine ⟨_, h, id, fun p => ?_⟩
      rw [State.placedAt, if_pos (by exact hs)]
      exact State.cycle_of_invalid hf hd
    · rw [h]
      refine ⟨_, exec_eq i s.advance, fun hp => ?_, fun p => ?_⟩
      · cases fatalCondition s.advance i with
        | none => exact (effect_status_phase s.advance i).2.trans hp
        | some r => rfl
      · have hcycle : State.cycle { s with phase := p } = exec i { s.advance with phase := p } :=
          State.cycle_of_valid hf hd
        exact hcycle.trans (exec_phase (s := s.advance) hs (exec_eq i s.advance) p)

/-! ### The slots of a tick, and its end -/

/-- The tick's end after its slots: a fatal condition has ended the tick before (R118). -/
def State.endTickIfLive (t : State) : State := if t.status = .live then t.endTick else t

theorem runSlots_of_fatal {k : Nat} (hs : s.status ≠ .live) : runSlots k s = .next s := by
  cases k with
  | zero => rfl
  | succ k => exact if_neg hs

theorem runSlots_succ {k : Nat} (hs : s.status = .live) (h : s.slot = .next t) : runSlots (k + 1) s = runSlots k t := by
  rw [runSlots, if_pos hs, h]

theorem runSteps_succ {n : Nat} (h : step s = .next t) : runSteps (n + 1) s = runSteps n t := by
  rw [runSteps, h]

theorem endTick_phase (hs : s.status = .live) (p : Phase) : State.endTick { s with phase := p } = s.endTick := by
  rw [State.endTick_eq hs, State.endTick_eq (s := { s with phase := p }) hs, State.decrementTimers_eq,
    State.decrementTimers_eq]
  rfl

/-- From an open tick on, the machine takes the slots one by one and then the tick's end, unless a fatal condition ended
the tick (R118, R127). -/
theorem runSteps_slots (k : Nat) (hs : s.status = .live) (hp : s.phase = .between) :
    ∃ n t, n ≤ k + 1 ∧ runSlots k s = .next t ∧ t.phase = .between ∧
      runSteps n { s with phase := .slots k } = .next t.endTickIfLive := by
  induction k generalizing s with
  | zero =>
    refine ⟨1, s, le_rfl, rfl, hp, ?_⟩
    rw [State.endTickIfLive, if_pos hs, ← endTick_phase hs (.slots 0)]
    rfl
  | succ k ih =>
    obtain ⟨t, hslot, hphase, hplaced⟩ := State.slot_next hs
    have hstep : step { s with phase := .slots (k + 1) } = .next (t.placedAt (.slots k)) :=
      (step_slot rfl).trans (hplaced (.slots k))
    rw [State.placedAt] at hstep
    rw [runSlots_succ hs hslot]
    by_cases ht : t.status = .live
    · rw [if_pos ht] at hstep
      obtain ⟨n, u, hn, hslots, hu, hsteps⟩ := ih ht (hphase hp)
      exact ⟨n + 1, u, by omega, hslots, hu, (runSteps_succ hstep).trans hsteps⟩
    · rw [if_neg ht] at hstep
      exact ⟨1, t, by omega, runSlots_of_fatal ht, hphase hp,
        (runSteps_succ hstep).trans (by rw [State.endTickIfLive, if_neg ht]; rfl)⟩

/-! ### The spec's tick, by the operations of the model -/

theorem countDown_eq (b : Byte) : countDown b = BitVec.ofNat 8 (b.toNat - 1) := by
  have := b.isLt
  apply BitVec.eq_of_toNat_eq
  rw [toNat_countDown, BitVec.toNat_ofNat]
  omega

theorem resolveKey_phase (s : State) (p : Phase) (pressed : Option Reg) :
    State.resolveKey { s with phase := p } pressed = { s.resolveKey pressed with phase := p } := by
  obtain ⟨_, _, _, _, _, _, _, _, _, _, _, paused, waiting, _⟩ := s
  cases paused <;> cases waiting <;> cases pressed <;> rfl

theorem resolveKey_status_phase (s : State) (pressed : Option Reg) :
    (s.resolveKey pressed).status = s.status ∧ (s.resolveKey pressed).phase = s.phase := by
  obtain ⟨x, k, -, -, -, e⟩ | ⟨-, e⟩ := s.resolveKey_cases pressed <;> rw [e] <;> exact ⟨rfl, rfl⟩

/-- The resolution of the pseudocode is that of the model (R130). -/
theorem resolveKey_eq_match (s : State) (pressed : Option Reg) :
    (match s.paused, s.waiting, pressed with
      | false, some x, some k => { s.setReg x (k.setWidth 8) with waiting := none }
      | _, _, _ => s) = s.resolveKey pressed := by
  obtain ⟨_, _, _, _, _, _, _, _, _, _, _, paused, waiting, _⟩ := s
  cases paused <;> cases waiting <;> cases pressed <;> rfl

theorem endTick_of_between (hs : s.status = .live) (hp : s.phase = .between) :
    s.endTick = { s.decrementTimers with out := some s.decrementTimers.tickResult } := by
  rw [State.endTick_eq hs, State.decrementTimers_eq, ← hp]

/-- The tick of R127 on a live instance outside a tick: the slots from the resolved state on, then the tick's end. -/
theorem tickSpec_live {keysNow : KeyTable} {pressed : Option Reg} (hs : s.status = .live)
    (h : runSlots s.cfg.ipt (State.resolveKey { s with keys := keysNow, out := none } pressed) = .next t)
    (hp : t.phase = .between) :
    tickSpec keysNow pressed s = .next t.endTickIfLive := by
  rw [tickSpec, if_neg (not_not.2 hs)]
  dsimp only
  have h' := (congrArg (runSlots s.cfg.ipt)
    (resolveKey_eq_match { s with keys := keysNow, out := none } pressed)).trans h
  split
  next u hu =>
    cases hu.symm.trans h'
    by_cases ht : t.status = .live
    · rw [if_neg (not_not.2 ht), State.endTickIfLive, if_pos ht, endTick_of_between ht hp, State.decrementTimers]
      simp only [countDown_eq]
      rfl
    · rw [if_pos ht, State.endTickIfLive, if_neg ht]
  next f hf => cases hf.symm.trans h'
  next r hr => cases hr.symm.trans h'

theorem tickSpec_fatal {keysNow : KeyTable} {pressed : Option Reg} {r : FatalReason} (hs : s.status = .fatal r) :
    tickSpec keysNow pressed s = .next s :=
  if_pos (hs ▸ nofun)

/-- From the start of a tick on, the machine gives what the spec's tick gives (R127). -/
theorem runSteps_beginTick (s : State) (hp : s.phase = .between) (keysNow : KeyTable) (pressed : Option Reg) :
    ∃ n, n ≤ s.cfg.ipt + 1 ∧ runSteps n (s.beginTick keysNow pressed) = tickSpec keysNow pressed s := by
  cases hs : s.status with
  | fatal r =>
    refine ⟨0, by omega, ?_⟩
    rw [State.beginTick_fatal hs, tickSpec_fatal hs, runSteps]
  | live =>
    have hbegin := (State.beginTick_live hs keysNow pressed).trans
      (resolveKey_phase { s with keys := keysNow, out := none } (.slots s.cfg.ipt) pressed)
    obtain ⟨hlive, hbetween⟩ := resolveKey_status_phase { s with keys := keysNow, out := none } pressed
    obtain ⟨n, t, hn, hslots, ht, hsteps⟩ := runSteps_slots s.cfg.ipt (hlive.trans hs) (hbetween.trans hp)
    exact ⟨n, hn, by rw [hbegin, hsteps, tickSpec_live hs hslots ht]⟩

end

end Sys2Proof.Machine

namespace Sys2Proof.Proofs

open Sys2Proof Sys2Proof.Machine

/-- Settles O10: one step opens the tick, then the slots and the tick's end are taken one by one. -/
theorem tickFollowsPseudocode : Obligations.TickFollowsPseudocode := by
  intro s keysNow pressed rest hp hc
  obtain ⟨n, hn, hsteps⟩ := runSteps_beginTick { s with calls := rest } hp keysNow pressed
  exact ⟨n + 1, n.succ_pos, Nat.succ_le_succ hn, (runSteps_succ (step_tick hp hc)).trans hsteps⟩

end Sys2Proof.Proofs
